-- ==== Sys2Proof/Word.lean ====
section
/-! DEFINITION. The bit widths of the block: 32-bit words, bytes, 40-bit command words and 36-bit response words. -/

namespace Sys2Proof

/-- A 32-bit word: `SHA_WORD`, `XS_WORD`, a command's `ARG`, a response's `RES` (R7, R90, R92). -/
abbrev Word := BitVec 32

/-- A byte (R8). -/
abbrev Byte := BitVec 8

/-- A command word `CW` of `CW_WIDTH` = 40 bits: `OP` in bits 39:32, `ARG` in bits 31:0 (R7, R90). -/
abbrev CommandWord := BitVec 40

/-- A response word `RSP` of 36 bits: `ST` in bits 35:32, `RES` in bits 31:0 (R92). -/
abbrev ResponseWord := BitVec 36

end Sys2Proof
end

