-- ==== Sys2Proof/Syntax.lean ====
section
/-! DEFINITION. The commands of the block, one constructor per row of the opcode map (R93). A constructor holds every bit of
`ARG` in the fields of its format (R91), the reserved field first: `OP` alone selects the command (R93) and the command
itself checks its reserved bits (R94), so the decoder may not drop them. -/

namespace Sys2Proof

/-- A command (R90), as decoded. `reserved` is the field of `ARG` that the command's format does not use (R91). -/
inductive Instr where
  /-- `SYS_NOP`, R220. -/
  | sysNop (reserved : BitVec 32)
  /-- `SYS_RESET`, R221. -/
  | sysReset (reserved : BitVec 32)
  /-- `SYS_RDCSR index`, R222. -/
  | sysRdcsr (reserved : BitVec 28) (index : BitVec 4)
  /-- `SYS_CLRERR`, R223. -/
  | sysClrerr (reserved : BitVec 32)
  /-- `SHA_INIT`, R124. -/
  | shaInit (reserved : BitVec 32)
  /-- `SHA_UPDATE byte`, R125. -/
  | shaUpdate (reserved : BitVec 24) (byte : Byte)
  /-- `SHA_FINAL`, R126. -/
  | shaFinal (reserved : BitVec 32)
  /-- `SHA_READ index`, R127. -/
  | shaRead (reserved : BitVec 29) (index : BitVec 3)
  /-- `XS_INIT`, R151. -/
  | xsInit (reserved : BitVec 32)
  /-- `XS_SEED word`, R152. -/
  | xsSeed (word : Word)
  /-- `XS_START`, R153. -/
  | xsStart (reserved : BitVec 32)
  /-- `XS_NEXT`, R156. -/
  | xsNext (reserved : BitVec 32)
  /-- `XS_INT min, max`, R158: two 16-bit numbers in two's complement. -/
  | xsInt (min max : BitVec 16)
  /-- `XS_PICK length`, R159. -/
  | xsPick (length : Word)
  /-- `XS_BOOL threshold`, R160. -/
  | xsBool (threshold : Word)
  /-- `CRC_INIT`, R181. -/
  | crcInit (reserved : BitVec 32)
  /-- `CRC_UPDATE byte`, R182. -/
  | crcUpdate (reserved : BitVec 24) (byte : Byte)
  /-- `CRC_READ`, R183. -/
  | crcRead (reserved : BitVec 32)
  /-- `AD_INIT`, R191. -/
  | adInit (reserved : BitVec 32)
  /-- `AD_UPDATE byte`, R192. -/
  | adUpdate (reserved : BitVec 24) (byte : Byte)
  /-- `AD_READ`, R193. -/
  | adRead (reserved : BitVec 32)
  /-- `ZS_BEGIN length`, R202. -/
  | zsBegin (length : Word)
  /-- `ZS_DATA byte`, R203. -/
  | zsData (reserved : BitVec 24) (byte : Byte)
  /-- `ZS_END`, R204. -/
  | zsEnd (reserved : BitVec 32)
  deriving DecidableEq, Repr

end Sys2Proof
end

