-- ==== Sys2Proof/Decode.lean ====
section
/-! DEFINITION. The command word (R90), the opcode map (R93), the decoder (total on every 40-bit word, R95) and the encoder. -/

namespace Sys2Proof

/-- `OP = CW[39:32]` (R90). -/
def opField (cw : CommandWord) : BitVec 8 := cw.extractLsb' 32 8

/-- `ARG = CW[31:0]` (R90). -/
def argField (cw : CommandWord) : Word := cw.extractLsb' 0 32

/-- The command word with the fields `OP` and `ARG` (R90). -/
def commandWord (op : BitVec 8) (arg : Word) : CommandWord := op ++ arg

/-! The 24 opcodes of R93. -/

def opSysNop : BitVec 8 := 0x00
def opSysReset : BitVec 8 := 0x01
def opSysRdcsr : BitVec 8 := 0x02
def opSysClrerr : BitVec 8 := 0x03
def opShaInit : BitVec 8 := 0x10
def opShaUpdate : BitVec 8 := 0x11
def opShaFinal : BitVec 8 := 0x12
def opShaRead : BitVec 8 := 0x13
def opXsInit : BitVec 8 := 0x20
def opXsSeed : BitVec 8 := 0x21
def opXsStart : BitVec 8 := 0x22
def opXsNext : BitVec 8 := 0x23
def opXsInt : BitVec 8 := 0x24
def opXsPick : BitVec 8 := 0x25
def opXsBool : BitVec 8 := 0x26
def opCrcInit : BitVec 8 := 0x30
def opCrcUpdate : BitVec 8 := 0x31
def opCrcRead : BitVec 8 := 0x32
def opAdInit : BitVec 8 := 0x40
def opAdUpdate : BitVec 8 := 0x41
def opAdRead : BitVec 8 := 0x42
def opZsBegin : BitVec 8 := 0x50
def opZsData : BitVec 8 := 0x51
def opZsEnd : BitVec 8 := 0x52

/-- The formats of R91. -/
inductive Format where
  | n | b | w | p | i3 | i4
  deriving DecidableEq, Repr

/-- A row of the opcode map (R93): its mnemonic, opcode and format. -/
structure OpcodeRow where
  mnemonic : String
  op : BitVec 8
  format : Format
  deriving DecidableEq, Repr

/-- The row's `match` value (R93): the opcode above 32 zero bits. -/
def OpcodeRow.pattern (row : OpcodeRow) : CommandWord := commandWord row.op 0

/-- Every row's mask (R93): `0xFF00000000`, so `ARG` never takes part in selecting. -/
def opcodeMask : CommandWord := 0xFF00000000

/-- The opcode map, R93, in its order. -/
def opcodeTable : List OpcodeRow :=
  [⟨"SYS_NOP", opSysNop, .n⟩, ⟨"SYS_RESET", opSysReset, .n⟩, ⟨"SYS_RDCSR", opSysRdcsr, .i4⟩,
   ⟨"SYS_CLRERR", opSysClrerr, .n⟩,
   ⟨"SHA_INIT", opShaInit, .n⟩, ⟨"SHA_UPDATE", opShaUpdate, .b⟩, ⟨"SHA_FINAL", opShaFinal, .n⟩,
   ⟨"SHA_READ", opShaRead, .i3⟩,
   ⟨"XS_INIT", opXsInit, .n⟩, ⟨"XS_SEED", opXsSeed, .w⟩, ⟨"XS_START", opXsStart, .n⟩, ⟨"XS_NEXT", opXsNext, .n⟩,
   ⟨"XS_INT", opXsInt, .p⟩, ⟨"XS_PICK", opXsPick, .w⟩, ⟨"XS_BOOL", opXsBool, .w⟩,
   ⟨"CRC_INIT", opCrcInit, .n⟩, ⟨"CRC_UPDATE", opCrcUpdate, .b⟩, ⟨"CRC_READ", opCrcRead, .n⟩,
   ⟨"AD_INIT", opAdInit, .n⟩, ⟨"AD_UPDATE", opAdUpdate, .b⟩, ⟨"AD_READ", opAdRead, .n⟩,
   ⟨"ZS_BEGIN", opZsBegin, .w⟩, ⟨"ZS_DATA", opZsData, .b⟩, ⟨"ZS_END", opZsEnd, .n⟩]

/-- `row` selects `cw`: `CW and mask = match` (R93). -/
def OpcodeRow.selects (row : OpcodeRow) (cw : CommandWord) : Bool := cw &&& opcodeMask == row.pattern

/-- Why a command word is no command. -/
inductive DecodeError where
  /-- `OP` is not one of the 24 of R93 (R95); the machine answers `ERR_ILLOP`. -/
  | illegalOpcode (op : BitVec 8)
  deriving DecidableEq, Repr

/-! The fields of `ARG` in the formats `B`, `P`, `I3` and `I4` (R91). -/

def reservedB (arg : Word) : BitVec 24 := arg.extractLsb' 8 24
def byteB (arg : Word) : Byte := arg.extractLsb' 0 8
def minP (arg : Word) : BitVec 16 := arg.extractLsb' 16 16
def maxP (arg : Word) : BitVec 16 := arg.extractLsb' 0 16
def reservedI3 (arg : Word) : BitVec 29 := arg.extractLsb' 3 29
def indexI3 (arg : Word) : BitVec 3 := arg.extractLsb' 0 3
def reservedI4 (arg : Word) : BitVec 28 := arg.extractLsb' 4 28
def indexI4 (arg : Word) : BitVec 4 := arg.extractLsb' 0 4

/-- The command that `OP = op`, `ARG = arg` stands for (R93, R91), or "illegal" (R95). -/
def decodeFields (op : BitVec 8) (arg : Word) : Except DecodeError Instr :=
  match op with
  | 0x00#8 => .ok (.sysNop arg)
  | 0x01#8 => .ok (.sysReset arg)
  | 0x02#8 => .ok (.sysRdcsr (reservedI4 arg) (indexI4 arg))
  | 0x03#8 => .ok (.sysClrerr arg)
  | 0x10#8 => .ok (.shaInit arg)
  | 0x11#8 => .ok (.shaUpdate (reservedB arg) (byteB arg))
  | 0x12#8 => .ok (.shaFinal arg)
  | 0x13#8 => .ok (.shaRead (reservedI3 arg) (indexI3 arg))
  | 0x20#8 => .ok (.xsInit arg)
  | 0x21#8 => .ok (.xsSeed arg)
  | 0x22#8 => .ok (.xsStart arg)
  | 0x23#8 => .ok (.xsNext arg)
  | 0x24#8 => .ok (.xsInt (minP arg) (maxP arg))
  | 0x25#8 => .ok (.xsPick arg)
  | 0x26#8 => .ok (.xsBool arg)
  | 0x30#8 => .ok (.crcInit arg)
  | 0x31#8 => .ok (.crcUpdate (reservedB arg) (byteB arg))
  | 0x32#8 => .ok (.crcRead arg)
  | 0x40#8 => .ok (.adInit arg)
  | 0x41#8 => .ok (.adUpdate (reservedB arg) (byteB arg))
  | 0x42#8 => .ok (.adRead arg)
  | 0x50#8 => .ok (.zsBegin arg)
  | 0x51#8 => .ok (.zsData (reservedB arg) (byteB arg))
  | 0x52#8 => .ok (.zsEnd arg)
  | op => .error (.illegalOpcode op)

/-- The decoder (R90, R95): total on every 40-bit word. -/
def decode (cw : CommandWord) : Except DecodeError Instr := decodeFields (opField cw) (argField cw)

/-- The opcode of a command (R93). -/
def Instr.opcode : Instr → BitVec 8
  | .sysNop _ => opSysNop
  | .sysReset _ => opSysReset
  | .sysRdcsr _ _ => opSysRdcsr
  | .sysClrerr _ => opSysClrerr
  | .shaInit _ => opShaInit
  | .shaUpdate _ _ => opShaUpdate
  | .shaFinal _ => opShaFinal
  | .shaRead _ _ => opShaRead
  | .xsInit _ => opXsInit
  | .xsSeed _ => opXsSeed
  | .xsStart _ => opXsStart
  | .xsNext _ => opXsNext
  | .xsInt _ _ => opXsInt
  | .xsPick _ => opXsPick
  | .xsBool _ => opXsBool
  | .crcInit _ => opCrcInit
  | .crcUpdate _ _ => opCrcUpdate
  | .crcRead _ => opCrcRead
  | .adInit _ => opAdInit
  | .adUpdate _ _ => opAdUpdate
  | .adRead _ => opAdRead
  | .zsBegin _ => opZsBegin
  | .zsData _ _ => opZsData
  | .zsEnd _ => opZsEnd

/-! `ARG` from its fields, by format (R91). -/

def argB (reserved : BitVec 24) (byte : Byte) : Word := reserved ++ byte
def argP (min max : BitVec 16) : Word := min ++ max
def argI3 (reserved : BitVec 29) (index : BitVec 3) : Word := reserved ++ index
def argI4 (reserved : BitVec 28) (index : BitVec 4) : Word := reserved ++ index

/-- The operand field `ARG` of a command, laid out by its format (R91). -/
def Instr.arg : Instr → Word
  | .sysNop r | .sysReset r | .sysClrerr r | .shaInit r | .shaFinal r | .xsInit r | .xsStart r | .xsNext r
  | .crcInit r | .crcRead r | .adInit r | .adRead r | .zsEnd r => r
  | .shaUpdate r byte | .crcUpdate r byte | .adUpdate r byte | .zsData r byte => argB r byte
  | .sysRdcsr r index => argI4 r index
  | .shaRead r index => argI3 r index
  | .xsInt min max => argP min max
  | .xsSeed w | .xsPick w | .xsBool w | .zsBegin w => w

/-- The encoder (R90): `OP` in bits 39:32, `ARG` in bits 31:0. -/
def encode (i : Instr) : CommandWord := commandWord i.opcode i.arg

/-- The command word with the value `w` of `nbits` bits; bit 0 of `w` is bit 0 of `CW` (R90). -/
def tableWord (nbits w : Nat) : CommandWord := BitVec.ofNat 40 (w % 2 ^ nbits)

/-- The command the decoder reads from an opcode-table word. -/
def decodeTableWord (nbits w : Nat) : Option Instr := (decode (tableWord nbits w)).toOption

end Sys2Proof
end

