-- ==== Sys2Proof/Config.lean ====
section
/-! DEFINITION. What an implementation fixes and the spec leaves open: the two fallback constants of the generator
(R7, OPEN parameters), the switchable readings of its formula, and the free values of a command that a hard reset cuts
short (R260). An `opaque` constant here has no body, so no proof can rest on a value of it. -/

namespace Sys2Proof

/-- Which reading of the update formula the XS unit computes (R7 `XS_MIX`, R155). -/
inductive XsMix where
  /-- The formula as the source prints it: every shift acts on the old words. -/
  | flat
  /-- The named alternative: the right shift by 17 acts on the already left-shifted word. -/
  | chained
  deriving DecidableEq, Repr

/-- Which state words a draw's result sums (R7 `XS_OUT`, R155). -/
inductive XsOut where
  /-- The words after the update. -/
  | post
  /-- The named alternative: the words before the update. -/
  | pre
  deriving DecidableEq, Repr

namespace Config

/-- OPEN (R7, D21): which of the 2^32 - 1 nonzero words `XS_FALLBACK0` is, counted from 0. Log 1. -/
opaque xsFallback0Choice : Fin 4294967295

/-- OPEN (R7, D21): which of the 2^32 - 2 nonzero words other than `XS_FALLBACK0` the constant `XS_FALLBACK1` is, counted
from 0 in rising order. Log 1. -/
opaque xsFallback1Choice : Fin 4294967294

/-- Free value (R260, X6): whether the `k`-th command that a hard reset cuts short still produces its response. Log 8. -/
opaque cutResponds : Nat → Bool

/-- Free value (R260, X6): how many of its bytes the `k`-th command that a hard reset cuts short has emitted, when its
response is absent. Log 8. -/
opaque cutBytes : Nat → Nat

end Config

end Sys2Proof
end

