-- ==== Sys2Proof/Machine/Params.lean ====
section
/-! DEFINITION. The implementation parameters of R7 and the constants of the standards the spec states (R121, R122, R180, R190). -/

namespace Sys2Proof.Machine

/-- `XS_FALLBACK0` (R7, D21): an uninterpreted nonzero word; every nonzero word is possible (log 1). -/
def xsFallback0 : Word := BitVec.ofNat 32 (Config.xsFallback0Choice.val + 1)

/-- `XS_FALLBACK1` (R7, D21): an uninterpreted word, neither 0 nor `XS_FALLBACK0`; every such word is possible: the nonzero
words are counted upward with `XS_FALLBACK0` left out (log 1). -/
def xsFallback1 : Word :=
  let k := Config.xsFallback1Choice.val + 1
  if k < Config.xsFallback0Choice.val + 1 then BitVec.ofNat 32 k else BitVec.ofNat 32 (k + 1)

/-- `XS_MIX` (R7, D19): the default, normative reading (log 2). -/
def xsMix : XsMix := .flat

/-- `XS_OUT` (R7, D20): the default, normative reading (log 2). -/
def xsOut : XsOut := .post

/-- `XS_WARMUP` (R7): the draws `XS_START` discards. -/
def xsWarmup : Nat := 10

/-- `SHA_MAXLEN` (R7): the longest message the SHA unit accepts, 2^61 - 1 bytes. -/
def shaMaxLen : BitVec 61 := 0x1FFFFFFFFFFFFFFF

/-- The initial hash value `IV[0..7]` (R122). -/
def shaIV : Vector Word 8 :=
  #v[0x6a09e667, 0xbb67ae85, 0x3c6ef372, 0xa54ff53a, 0x510e527f, 0x9b05688c, 0x1f83d9ab, 0x5be0cd19]

/-- The sixteen lines in which R121 prints the round constants, each as one number: four words, the first most significant. -/
def shaKLines : List (BitVec 128) :=
  [0x428a2f98_71374491_b5c0fbcf_e9b5dba5,
   0x3956c25b_59f111f1_923f82a4_ab1c5ed5,
   0xd807aa98_12835b01_243185be_550c7dc3,
   0x72be5d74_80deb1fe_9bdc06a7_c19bf174,
   0xe49b69c1_efbe4786_0fc19dc6_240ca1cc,
   0x2de92c6f_4a7484aa_5cb0a9dc_76f988da,
   0x983e5152_a831c66d_b00327c8_bf597fc7,
   0xc6e00bf3_d5a79147_06ca6351_14292967,
   0x27b70a85_2e1b2138_4d2c6dfc_53380d13,
   0x650a7354_766a0abb_81c2c92e_92722c85,
   0xa2bfe8a1_a81a664b_c24b8b70_c76c51a3,
   0xd192e819_d6990624_f40e3585_106aa070,
   0x19a4c116_1e376c08_2748774c_34b0bcb5,
   0x391c0cb3_4ed8aa4a_5b9cca4f_682e6ff3,
   0x748f82ee_78a5636f_84c87814_8cc70208,
   0x90befffa_a4506ceb_bef9a3f7_c67178f2]

/-- The four words of a line, in reading order. -/
def wordsOfLine (line : BitVec 128) : List Word :=
  [line.extractLsb' 96 32, line.extractLsb' 64 32, line.extractLsb' 32 32, line.extractLsb' 0 32]

/-- The round constants `K[0..63]` in reading order (R121). -/
def shaK : List Word := shaKLines.flatMap wordsOfLine

/-- `CRC_POLY` (R7): the reflected CRC-32 polynomial. -/
def crcPoly : Word := 0xEDB88320

/-- The starting CRC remainder (R181, R55). -/
def crcStart : Word := 0xFFFFFFFF

/-- `AD_MOD` (R7): the Adler-32 modulus. -/
def adMod : Nat := 65521

/-- `ZS_CMF` (R7): the first zlib header byte. -/
def zsCmf : Byte := 0x78

/-- `ZS_FLG` (R7): the second zlib header byte. -/
def zsFlg : Byte := 0x01

/-- `ZS_BLOCK_MAX` (R7): the payload bytes of a full stored block. -/
def zsBlockMax : Nat := 65535

end Sys2Proof.Machine
end

