-- ==== Sys2Proof/Machine/State.lean ====
section
/-! DEFINITION. The state of the block, unit by unit (R22 to R27), its ports (R60 to R63), and the state after reset (R55). -/

namespace Sys2Proof.Machine

/-- The SHA block buffer `buf[0..63]` (R66), the block's only addressable memory (R8): address and byte pairs in one
canonical form (`Memory.wf`). An address not listed holds `0x00`, the reset content of R55. -/
abbrev Memory := List Host.Cell

/-- The byte an unlisted address of the buffer holds: the reset value of `buf[0..63]` (R55). -/
def unlistedByte : Byte := 0x00

/-- The canonical form of a buffer: addresses strictly rising and below 64 (R66), no entry equal to the unlisted byte. -/
abbrev Memory.wf (m : Memory) : Prop :=
  m.Pairwise (fun x y => x.1 < y.1) ∧ ∀ c ∈ m, c.1 < 64 ∧ c.2 ≠ unlistedByte

/-- SHA unit state (R22). -/
structure ShaUnit where
  /-- `H[0..7]`. -/
  h : Vector Word 8
  /-- `buf[0..63]`. -/
  buf : Memory
  /-- `sha_fill`: the number of valid bytes in `buf`. -/
  fill : BitVec 6
  /-- `sha_len`: message bytes absorbed since `SHA_INIT` or reset. -/
  len : BitVec 61
  /-- `sha_done`: false is `ABSORB`, true is `DONE` (R129). -/
  done : Bool
  deriving DecidableEq, Repr

/-- `xs_st`, the state machine of the XS unit (R23, R150); the encoding 3 never occurs and is not representable (X4, log 10). -/
inductive XsState where
  | unseeded | seeding | ready
  deriving DecidableEq, Repr

/-- XS unit state (R23). -/
structure XsUnit where
  s0 : Word
  s1 : Word
  /-- `xs_st`. -/
  st : XsState
  /-- `xs_cnt`: seed words taken since `XS_INIT`, saturating at 2; 3 is not representable (X4, log 10). -/
  cnt : Fin 3
  deriving DecidableEq, Repr

/-- AD unit state (R25): the two Adler sums. -/
structure AdUnit where
  a : BitVec 16
  b : BitVec 16
  deriving DecidableEq, Repr

/-- ZS unit state (R26). -/
structure ZsUnit where
  /-- `zs_open`: false is `IDLE`, true is `OPEN` (R206). -/
  isOpen : Bool
  /-- `zs_remain`: payload bytes of the open stream still to come. -/
  remain : Word
  /-- `zs_blkrem`: payload bytes of the current stored block still to come. -/
  blkrem : BitVec 16
  deriving DecidableEq, Repr

/-- SYS unit state: the error record (R27). -/
structure ErrorRecord where
  /-- `err`, sticky. -/
  err : Bool
  /-- `err_code`: the status code of the first error since `err` was last 0. -/
  code : BitVec 4
  /-- `err_op`: the `OP` of the command that raised it. -/
  op : BitVec 8
  deriving DecidableEq, Repr

/-- What the host does at the block's inputs (R4, R60, R260). -/
inductive HostEvent where
  /-- A command word presented on the command port (R61). -/
  | command (cw : CommandWord)
  /-- The reset input asserted (R260), while the command `cut` executes or else between two commands; the words `during`
  are presented while it is asserted and are not executed. -/
  | hardReset (cut : Option CommandWord) (during : List CommandWord)
  deriving DecidableEq, Repr

/-- The machine: the six units' state (R22 to R27) and what stands at the ports (R60 to R63). -/
structure State where
  /-- SHA unit. -/
  sha : ShaUnit
  /-- XS unit. -/
  xs : XsUnit
  /-- CRC unit: `crc`, the remainder before the final inversion (R24). -/
  crc : Word
  /-- AD unit. -/
  ad : AdUnit
  /-- ZS unit. -/
  zs : ZsUnit
  /-- SYS unit: the error record. -/
  err : ErrorRecord
  /-- The host events the block has not yet taken, the next one first (R61, R80). -/
  port : List HostEvent
  /-- The response port: every response word so far, in command order (R62). -/
  responses : List ResponseWord
  /-- The `OUT` stream: every byte emitted so far, in order (R63). -/
  out : List Byte
  /-- The model's own counter: commands cut short by a hard reset so far; it picks the free values of R260 (log 8). -/
  cutCount : Nat
  deriving DecidableEq, Repr

/-- Why the machine stops with a fault: never. The block has no traps and no undefined command word (R230, R96), every error
is a response (R232), so there is no constructor. -/
inductive Fault where
  deriving DecidableEq, Repr

/-- Why an instruction has no meaning. -/
inductive Refusal where
  /-- Raised only by a refused arm of `exec`, for an instruction the model has not reached; safe. No arm is refused. -/
  | notModelled (mnemonic : String)
  deriving DecidableEq, Repr

/-- The SHA unit after reset and after `SHA_INIT` (R55, R124). -/
def ShaUnit.reset : ShaUnit := { h := shaIV, buf := [], fill := 0, len := 0, done := false }

/-- The XS unit after reset (R55). -/
def XsUnit.reset : XsUnit := { s0 := xsFallback0, s1 := xsFallback1, st := .unseeded, cnt := 0 }

/-- The AD unit after reset, `AD_INIT` and `ZS_BEGIN` (R55, R191, R202). -/
def AdUnit.reset : AdUnit := { a := 1, b := 0 }

/-- The ZS unit after reset (R55). -/
def ZsUnit.reset : ZsUnit := { isOpen := false, remain := 0, blkrem := 0 }

/-- The empty error record (R55, R223). -/
def ErrorRecord.reset : ErrorRecord := { err := false, code := 0, op := 0 }

/-- The machine right after reset (R55), with nothing presented, answered or emitted yet (log 13). -/
def State.reset : State :=
  { sha := .reset, xs := .reset, crc := crcStart, ad := .reset, zs := .reset, err := .reset,
    port := [], responses := [], out := [], cutCount := 0 }

end Sys2Proof.Machine
end

