-- ==== Sys2Proof/Machine/Ops.lean ====
section
/-! DEFINITION. The named operations over the SHA block buffer (R8, R66), the response port, the `OUT` stream and the error
record, the error response (R232), the shape every command shares (R230, R233), and reset (R55, R221, R260). -/

namespace Sys2Proof.Machine

/-- The byte at key `a` of a canonical cell list. -/
def lookupCell : List Host.Cell → Nat → Byte
  | [], _ => unlistedByte
  | (k, v) :: rest, a => if k = a then v else lookupCell rest a

/-- The cell list with `v` at key `a`, in canonical form if the list was: an unlisted byte is not listed. -/
def storeCell : List Host.Cell → Nat → Byte → List Host.Cell
  | [], a, v => if v = unlistedByte then [] else [(a, v)]
  | (k, w) :: rest, a, v =>
    if a < k then if v = unlistedByte then (k, w) :: rest else (a, v) :: (k, w) :: rest
    else if a = k then if v = unlistedByte then rest else (a, v) :: rest
    else (k, w) :: storeCell rest a v

/-- `buf[a]` (R66). An address is 6 bits, so every one lies in the buffer (log 12). -/
def Memory.read (m : Memory) (a : BitVec 6) : Byte := lookupCell m a.toNat

/-- `buf[a] <- v` (R66). -/
def Memory.write (m : Memory) (a : BitVec 6) (v : Byte) : Memory := storeCell m a.toNat v

/-- `MemRead(a, n)` (R8): `n` bytes as one value, the byte at `a` most significant. -/
def Memory.memRead (m : Memory) (a : BitVec 6) : (n : Nat) → BitVec (8 * n)
  | 0 => 0
  | n + 1 => m.memRead a n ++ m.read (a + BitVec.ofNat 6 n)

/-- `MemWrite(a, n, v)` (R8): the `n` bytes of `v`, the most significant at `a`. -/
def Memory.memWrite (m : Memory) (a : BitVec 6) (n : Nat) (v : BitVec (8 * n)) : Memory :=
  (List.range n).foldl (fun m i => m.write (a + BitVec.ofNat 6 i) (v.extractLsb' (8 * (n - 1 - i)) 8)) m

/-- `buf[j] <- 0x00 for j = first .. last - 1` (R126): nothing where `first = last`. -/
def Memory.zero (m : Memory) (first last : Nat) : Memory :=
  (List.range' first (last - first)).foldl (fun m j => m.write (BitVec.ofNat 6 j) 0x00) m

/-- The error codes (R231). -/
inductive ErrorCode where
  /-- `ERR_ILLOP`: `OP` is not defined. -/
  | illop
  /-- `ERR_ARG`: a reserved bit, a reserved index or a zero `XS_PICK` length. -/
  | arg
  /-- `ERR_SEQ`: not legal in the unit's present state. -/
  | seq
  /-- `ERR_BUSY`: the AD unit's registers are in use by an open stream. -/
  | busy
  /-- `ERR_LEN`: a length limit. -/
  | len
  deriving DecidableEq, Repr

/-- The status code of an error (R92, R231). -/
def errorStatus : ErrorCode → BitVec 4
  | .illop => 1
  | .arg => 2
  | .seq => 3
  | .busy => 4
  | .len => 5

/-- The status code `OK` (R92). -/
def statusOk : BitVec 4 := 0

/-- A response word (R92): `ST` in bits 35:32, `RES` in bits 31:0. -/
def responseWord (st : BitVec 4) (res : Word) : ResponseWord := st ++ res

/-- `respond(st, res)` (R8, R62): one response word on the response port. -/
def respond (st : BitVec 4) (res : Word) (s : State) : State :=
  { s with responses := s.responses ++ [responseWord st res] }

/-- `emit(b0, b1, …)` (R8, R63): bytes appended to `OUT` in the order written. -/
def emit (bytes : List Byte) (s : State) : State := { s with out := s.out ++ bytes }

/-- Steps 1 and 2 of R232: the first error since `err` was 0 is recorded, a later one is not. -/
def recordError (op : BitVec 8) (code : ErrorCode) (e : ErrorRecord) : ErrorRecord :=
  if e.err then e else { err := true, code := errorStatus code, op := op }

/-- `raise Err(code)` (R232), the block's one exception: the error record and the response `(code, 0)`, nothing else. -/
def raiseErr (op : BitVec 8) (code : ErrorCode) (s : State) : State :=
  respond (errorStatus code) 0 { s with err := recordError op code s.err }

/-- Leaving the error condition (R234, R223): the record is emptied; there is nothing else to restore. -/
def clearErr (s : State) : State := { s with err := .reset }

/-- The first failing check, in the order given (R233). -/
def firstError : List (Bool × ErrorCode) → Option ErrorCode
  | [] => none
  | (fails, code) :: rest => if fails then some code else firstError rest

/-- How every command goes (R230, R233): the first check that fails raises its error and nothing else happens; if none
fails, the command's work `done` takes effect and it answers `OK` with `res`. -/
def runCommand (op : BitVec 8) (checks : List (Bool × ErrorCode)) (done : State) (res : Word) (s : State) :
    Host.Outcome State Fault Refusal :=
  match firstError checks with
  | some code => .next (raiseErr op code s)
  | none => .next (respond statusOk res done)

/-- Every piece of the block's state at its reset value (R55), as `SYS_RESET` and hard reset leave it (R221, R260). What
stands at the ports is not state of the block and stays (R63). -/
def resetUnits (s : State) : State :=
  { s with sha := .reset, xs := .reset, crc := crcStart, ad := .reset, zs := .reset, err := .reset }

/-- A hard reset that arrives while a command executes (R260, X6). `s` is the state before the command, `t` the state it
would have left. The units are reset. Either the response was produced, and then so were all bytes (R81), or it is
absent and some of the command's bytes, a free number counted from the first, were emitted. -/
def cutShort (s t : State) : State :=
  let n := s.cutCount
  if Config.cutResponds n then { resetUnits t with cutCount := n + 1 }
  else { resetUnits s with out := t.out.take (s.out.length + Config.cutBytes n), cutCount := n + 1 }

end Sys2Proof.Machine
end

