-- ==== Sys2Proof/Machine/Checksums.lean ====
section
/-! DEFINITION. The CRC-32 and Adler-32 updates by one byte (R180, R190) and the values they are read as (R183, R193). -/

namespace Sys2Proof.Machine

/-- One of the eight shifts of R180 step 2. -/
def crcShift (c : Word) : Word := if c.getLsbD 0 then (c >>> 1) ^^^ crcPoly else c >>> 1

/-- `crc_step(c, byte)` (R180): the byte meets bits 7:0 of the remainder, then eight shifts. -/
def crcStep (c : Word) (byte : Byte) : Word := Nat.iterate crcShift 8 (c ^^^ byte.setWidth 32)

/-- The value `CRC_READ` answers (R183, R24): the inverted remainder. -/
def crcResult (c : Word) : Word := ~~~c

/-- `adler_step(a, b, byte)` (R190): `b` takes the new `a`; both sums modulo 65521. -/
def adlerStep (byte : Byte) (u : AdUnit) : AdUnit :=
  let a := (u.a.toNat + byte.toNat) % adMod
  { a := BitVec.ofNat 16 a, b := BitVec.ofNat 16 ((u.b.toNat + a) % adMod) }

/-- The value `AD_READ` answers (R193, R71): `b || a`. -/
def adlerResult (u : AdUnit) : Word := u.b ++ u.a

end Sys2Proof.Machine
end

