-- ==== Sys2Proof/Machine/Operands.lean ====
section
/-! DEFINITION. Operand forms (R91) and operand checks (R94). -/

namespace Sys2Proof.Machine

/-- The reserved field of a command is not 0 (R94): the command raises `ERR_ARG`. -/
def reservedSet {n : Nat} (reserved : BitVec n) : Bool := reserved != 0

/-- `signed_16(v)` (R8): format `P`'s operands are two's complement (R91). -/
def signed16 (v : BitVec 16) : Int := v.toInt

/-- The defined control and status registers (R40). -/
inductive Csr where
  | status | errinfo | shaLenLo | shaLenHi | xsS0 | xsS1 | xsCnt | crcRaw | adA | adB | zsRemain | zsBlkrem | shaFill
  deriving DecidableEq, Repr

/-- The register a CSR index names (R40); none for the reserved indices 13, 14 and 15 (R50). -/
def csrOfIndex (index : BitVec 4) : Option Csr :=
  match index with
  | 0 => some .status
  | 1 => some .errinfo
  | 2 => some .shaLenLo
  | 3 => some .shaLenHi
  | 4 => some .xsS0
  | 5 => some .xsS1
  | 6 => some .xsCnt
  | 7 => some .crcRaw
  | 8 => some .adA
  | 9 => some .adB
  | 10 => some .zsRemain
  | 11 => some .zsBlkrem
  | 12 => some .shaFill
  | _ => none

end Sys2Proof.Machine
end

