-- ==== Sys2Proof/Machine/Ad.lean ====
section
/-! DEFINITION. The AD unit's commands (R191 to R193); the first two are refused while a zlib stream is open (R25). -/

namespace Sys2Proof.Machine

/-- `AD_INIT` (R191). -/
def execAdInit (reserved : BitVec 32) (s : State) : Host.Outcome State Fault Refusal :=
  runCommand opAdInit [(reservedSet reserved, .arg), (s.zs.isOpen, .busy)] { s with ad := .reset } 0 s

/-- `AD_UPDATE byte` (R192). -/
def execAdUpdate (reserved : BitVec 24) (byte : Byte) (s : State) : Host.Outcome State Fault Refusal :=
  runCommand opAdUpdate [(reservedSet reserved, .arg), (s.zs.isOpen, .busy)] { s with ad := adlerStep byte s.ad } 0 s

/-- `AD_READ` (R193): legal also while a stream is open. -/
def execAdRead (reserved : BitVec 32) (s : State) : Host.Outcome State Fault Refusal :=
  runCommand opAdRead [(reservedSet reserved, .arg)] s (adlerResult s.ad) s

end Sys2Proof.Machine
end

