-- ==== Sys2Proof/Machine/Crc.lean ====
section
/-! DEFINITION. The CRC unit's commands (R181 to R183), legal in every state (R24). -/

namespace Sys2Proof.Machine

/-- `CRC_INIT` (R181). -/
def execCrcInit (reserved : BitVec 32) (s : State) : Host.Outcome State Fault Refusal :=
  runCommand opCrcInit [(reservedSet reserved, .arg)] { s with crc := crcStart } 0 s

/-- `CRC_UPDATE byte` (R182). -/
def execCrcUpdate (reserved : BitVec 24) (byte : Byte) (s : State) : Host.Outcome State Fault Refusal :=
  runCommand opCrcUpdate [(reservedSet reserved, .arg)] { s with crc := crcStep s.crc byte } 0 s

/-- `CRC_READ` (R183). -/
def execCrcRead (reserved : BitVec 32) (s : State) : Host.Outcome State Fault Refusal :=
  runCommand opCrcRead [(reservedSet reserved, .arg)] s (crcResult s.crc) s

end Sys2Proof.Machine
end

