-- ==== Sys2Proof/Machine/Sha256.lean ====
section
/-! DEFINITION. The SHA-256 functions (R120), the compression of one block (R123), and what `SHA_UPDATE` and `SHA_FINAL` do to
the SHA unit (R125, R126). -/

namespace Sys2Proof.Machine

/-- `rotr32(v, n) = shr(v, n) xor shl32(v, 32 - n)` for `0 < n < 32` (R8). -/
def rotr32 (v : Word) (n : Nat) : Word := (v >>> n) ^^^ (v <<< (32 - n))

/-- `Ch` (R120). -/
def shaCh (x y z : Word) : Word := (x &&& y) ^^^ (~~~x &&& z)

/-- `Maj` (R120). -/
def shaMaj (x y z : Word) : Word := (x &&& y) ^^^ (x &&& z) ^^^ (y &&& z)

/-- `BSIG0`, the source's Σ0 (R120). -/
def bsig0 (x : Word) : Word := rotr32 x 2 ^^^ rotr32 x 13 ^^^ rotr32 x 22

/-- `BSIG1`, the source's Σ1 (R120). -/
def bsig1 (x : Word) : Word := rotr32 x 6 ^^^ rotr32 x 11 ^^^ rotr32 x 25

/-- `SSIG0`, the source's σ0 (R120): its third term is a shift. -/
def ssig0 (x : Word) : Word := rotr32 x 7 ^^^ rotr32 x 18 ^^^ (x >>> 3)

/-- `SSIG1`, the source's σ1 (R120): its third term is a shift. -/
def ssig1 (x : Word) : Word := rotr32 x 17 ^^^ rotr32 x 19 ^^^ (x >>> 10)

/-- One more word of the message schedule (R123 step 1), for the schedule `W[t-1], W[t-2], …, W[0]`, newest first. -/
def scheduleStep (w : List Word) : List Word :=
  (ssig1 (w.getD 1 0) + w.getD 6 0 + ssig0 (w.getD 14 0) + w.getD 15 0) :: w

/-- The message schedule `W[0..63]` of a block of sixteen words (R123 step 1). -/
def messageSchedule (block : List Word) : List Word := (Nat.iterate scheduleStep 48 block.reverse).reverse

/-- The eight working variables of R123; they exist only inside one compression (R29). -/
structure Working where
  a : Word
  b : Word
  c : Word
  d : Word
  e : Word
  f : Word
  g : Word
  h : Word
  deriving DecidableEq, Repr

/-- Step 2 of R123. -/
def workingOf (h : Vector Word 8) : Working :=
  { a := h[0], b := h[1], c := h[2], d := h[3], e := h[4], f := h[5], g := h[6], h := h[7] }

/-- One round (R123 step 3) with `K[t] = k` and `W[t] = w`; every right side uses the values from before the round. -/
def shaRound (v : Working) (kw : Word × Word) : Working :=
  let t1 := v.h + bsig1 v.e + shaCh v.e v.f v.g + kw.1 + kw.2
  let t2 := bsig0 v.a + shaMaj v.a v.b v.c
  { a := t1 + t2, b := v.a, c := v.b, d := v.c, e := v.d + t1, f := v.e, g := v.f, h := v.g }

/-- Steps 2 to 4 of R123 for a block given as its sixteen words. -/
def compressWords (h : Vector Word 8) (block : List Word) : Vector Word 8 :=
  let v := (shaK.zip (messageSchedule block)).foldl shaRound (workingOf h)
  #v[h[0] + v.a, h[1] + v.b, h[2] + v.c, h[3] + v.d, h[4] + v.e, h[5] + v.f, h[6] + v.g, h[7] + v.h]

/-- The block's sixteen big-endian words `MemRead(4 t, 4)` (R66, R68). -/
def blockWords (buf : Memory) : List Word :=
  (List.range 16).map fun t => buf.memRead (BitVec.ofNat 6 (4 * t)) 4

/-- `compress(H, buf)` (R123). -/
def compress (h : Vector Word 8) (buf : Memory) : Vector Word 8 := compressWords h (blockWords buf)

/-- Steps 4 to 6 of `SHA_UPDATE` (R125): one message byte into the buffer, and a compression when it is full. -/
def absorbByte (byte : Byte) (u : ShaUnit) : ShaUnit :=
  let buf := u.buf.memWrite u.fill 1 byte
  if u.fill = 63 then { u with h := compress u.h buf, buf := buf, fill := 0, len := u.len + 1 }
  else { u with buf := buf, fill := u.fill + 1, len := u.len + 1 }

/-- `L = 8 * sha_len`, the 64-bit length in bits (R126 step 3). -/
def bitLength (u : ShaUnit) : BitVec 64 := u.len.setWidth 64 * 8

/-- Step 6 of `SHA_FINAL` (R126) from `buf[f]` upward: zeros up to the length field, the length, the last compression; and
step 7. -/
def closeBlock (u : ShaUnit) (f : Nat) (h : Vector Word 8) (buf : Memory) : ShaUnit :=
  let last := (buf.zero f 56).memWrite 56 8 (bitLength u)
  { u with h := compress h last, buf := last, fill := 0, done := true }

/-- Steps 3 to 7 of `SHA_FINAL` (R126): pad and finish. -/
def finalize (u : ShaUnit) : ShaUnit :=
  let buf := u.buf.memWrite u.fill 1 (0x80 : Byte)
  let f := u.fill.toNat + 1
  if f > 56 then
    let full := buf.zero f 64
    closeBlock u 0 (compress u.h full) full
  else closeBlock u f u.h buf

end Sys2Proof.Machine
end

