-- ==== Sys2Proof/Machine/Sha.lean ====
section
/-! DEFINITION. The SHA unit's commands (R124 to R127), legal as R129 says. -/

namespace Sys2Proof.Machine

/-- `SHA_INIT` (R124): legal in both unit states. -/
def execShaInit (reserved : BitVec 32) (s : State) : Host.Outcome State Fault Refusal :=
  runCommand opShaInit [(reservedSet reserved, .arg)] { s with sha := .reset } 0 s

/-- `SHA_UPDATE byte` (R125). -/
def execShaUpdate (reserved : BitVec 24) (byte : Byte) (s : State) : Host.Outcome State Fault Refusal :=
  runCommand opShaUpdate [(reservedSet reserved, .arg), (s.sha.done, .seq), (s.sha.len == shaMaxLen, .len)]
    { s with sha := absorbByte byte s.sha } 0 s

/-- `SHA_FINAL` (R126). -/
def execShaFinal (reserved : BitVec 32) (s : State) : Host.Outcome State Fault Refusal :=
  runCommand opShaFinal [(reservedSet reserved, .arg), (s.sha.done, .seq)] { s with sha := finalize s.sha } 0 s

/-- `SHA_READ index` (R127): legal once a digest stands (R129). -/
def execShaRead (reserved : BitVec 29) (index : BitVec 3) (s : State) : Host.Outcome State Fault Refusal :=
  runCommand opShaRead [(reservedSet reserved, .arg), (!s.sha.done, .seq)] s (s.sha.h[index.toNat]'index.isLt) s

end Sys2Proof.Machine
end

