-- ==== Sys2Proof/Machine/Flags.lean ====
section
/-! DEFINITION. The block has no condition codes (R28). Its status bits `SHA_DONE`, `XS_ST`, `ZS_OPEN` and `ERR` and the other
registers are read through the CSRs, pure views of the state (R40 to R49). -/

namespace Sys2Proof.Machine

/-- The two bits of `xs_st` (R23). -/
def xsStBits : XsState → BitVec 2
  | .unseeded => 0
  | .seeding => 1
  | .ready => 2

/-- `STATUS` (R41): bit 0 `SHA_DONE`, bits 2:1 `XS_ST`, bit 3 `ZS_OPEN`, bit 4 `ERR`. -/
def statusWord (s : State) : Word :=
  (0 : BitVec 27) ++ BitVec.ofBool s.err.err ++ BitVec.ofBool s.zs.isOpen ++ xsStBits s.xs.st ++ BitVec.ofBool s.sha.done

/-- `ERRINFO` (R42): bits 3:0 `ERRCODE`, bits 15:8 `ERROP`. -/
def errinfoWord (s : State) : Word := (0 : BitVec 16) ++ s.err.op ++ (0 : BitVec 4) ++ s.err.code

/-- The 32-bit value a CSR reads (R41 to R49). -/
def csrValue (s : State) : Csr → Word
  | .status => statusWord s
  | .errinfo => errinfoWord s
  | .shaLenLo => s.sha.len.extractLsb' 0 32
  | .shaLenHi => (0 : BitVec 3) ++ s.sha.len.extractLsb' 32 29
  | .xsS0 => s.xs.s0
  | .xsS1 => s.xs.s1
  | .xsCnt => BitVec.ofNat 32 s.xs.cnt.val
  | .crcRaw => s.crc
  | .adA => s.ad.a.setWidth 32
  | .adB => s.ad.b.setWidth 32
  | .zsRemain => s.zs.remain
  | .zsBlkrem => s.zs.blkrem.setWidth 32
  | .shaFill => s.sha.fill.setWidth 32

end Sys2Proof.Machine
end

