-- ==== Sys2Proof/Machine/Sys.lean ====
section
/-! DEFINITION. The SYS unit's commands (R220 to R223). -/

namespace Sys2Proof.Machine

/-- `SYS_NOP` (R220). -/
def execSysNop (reserved : BitVec 32) (s : State) : Host.Outcome State Fault Refusal :=
  runCommand opSysNop [(reservedSet reserved, .arg)] s 0 s

/-- `SYS_RESET` (R221, R261). -/
def execSysReset (reserved : BitVec 32) (s : State) : Host.Outcome State Fault Refusal :=
  runCommand opSysReset [(reservedSet reserved, .arg)] (resetUnits s) 0 s

/-- `SYS_RDCSR index` (R222): a reserved bit or a reserved index (R50) is refused. -/
def execSysRdcsr (reserved : BitVec 28) (index : BitVec 4) (s : State) : Host.Outcome State Fault Refusal :=
  runCommand opSysRdcsr [(reservedSet reserved || (csrOfIndex index).isNone, .arg)] s
    (((csrOfIndex index).map (csrValue s)).getD 0) s

/-- `SYS_CLRERR` (R223). -/
def execSysClrerr (reserved : BitVec 32) (s : State) : Host.Outcome State Fault Refusal :=
  runCommand opSysClrerr [(reservedSet reserved, .arg)] (clearErr s) 0 s

end Sys2Proof.Machine
end

