-- ==== Sys2Proof/Machine/Xorshift.lean ====
section
/-! DEFINITION. The generator's update and output (R155) under every reading of `XS_MIX` and `XS_OUT`, and the scaling of a
draw to an integer, an index or a truth value (R158 to R160). -/

namespace Sys2Proof.Machine

/-- Step 2 of R155 from the old words `x = s0`, `y = s1`: shifts left drop bits, shifts right bring in zeros. -/
def mixWord (mix : XsMix) (x y : Word) : Word :=
  match mix with
  | .flat => x ^^^ (x <<< 23) ^^^ (x >>> 17) ^^^ y ^^^ (y >>> 26)
  | .chained =>
    let t := x ^^^ (x <<< 23)
    (t ^^^ (t >>> 17)) ^^^ y ^^^ (y >>> 26)

/-- Step 3 of R155 on the pair `(s0, s1)`: the new state is `(s1_old, s1')`. -/
def advance (mix : XsMix) (p : Word × Word) : Word × Word := (p.2, mixWord mix p.1 p.2)

/-- Step 4 of R155: the sum modulo 2^32 of the new words (`POST`) or of the old ones (`PRE`). -/
def drawOutput (out : XsOut) (old new : Word × Word) : Word :=
  match out with
  | .post => new.1 + new.2
  | .pre => old.1 + old.2

/-- The generator's state words. -/
def XsUnit.pair (u : XsUnit) : Word × Word := (u.s0, u.s1)

/-- The unit with the state words `p`. -/
def XsUnit.withPair (u : XsUnit) (p : Word × Word) : XsUnit := { u with s0 := p.1, s1 := p.2 }

/-- The state change of one `draw()` (R155), with the machine's `XS_MIX`. -/
def drawState (u : XsUnit) : XsUnit := u.withPair (advance xsMix u.pair)

/-- The value `U` of one `draw()` (R155), with the machine's `XS_MIX` and `XS_OUT`. -/
def drawValue (u : XsUnit) : Word := drawOutput xsOut u.pair (advance xsMix u.pair)

/-- The XS unit after `XS_INIT` (R151). -/
def xsBeginSeeding (_ : XsUnit) : XsUnit := { s0 := xsFallback0, s1 := xsFallback1, st := .seeding, cnt := 0 }

/-- Step 2 of `XS_SEED` (R152): the first and second words, a zero one replaced by its fallback; each later one folded into
`s0` and followed by a discarded draw. -/
def xsTakeSeed (word : Word) (u : XsUnit) : XsUnit :=
  match u.cnt with
  | 0 => { u with s0 := if word = 0 then xsFallback0 else word, cnt := 1 }
  | 1 => { u with s1 := if word = 0 then xsFallback1 else word, cnt := 2 }
  | 2 => drawState { u with s0 := u.s0 ^^^ word }

/-- Steps 3 and 4 of `XS_START` (R153): the warm-up draws, then `READY`. -/
def xsWarmUp (u : XsUnit) : XsUnit := { Nat.iterate drawState xsWarmup u with st := .ready }

/-- Steps 3 to 6 of `XS_INT` (R158): `min + floor(U * (max - min) / 2^32)`, exact, as a 32-bit two's complement number. -/
def scaleInt (min max : Int) (u : Word) : Word := BitVec.ofInt 32 (min + Int.fdiv (u.toNat * (max - min)) (2 ^ 32))

/-- Step 4 of `XS_PICK` (R159): `floor(U * length / 2^32)`. -/
def scalePick (length u : Word) : Word := BitVec.ofNat 32 (u.toNat * length.toNat / 2 ^ 32)

/-- Step 3 of `XS_BOOL` (R160): the unsigned comparison `U < threshold`. -/
def belowThreshold (threshold u : Word) : Word := if u.toNat < threshold.toNat then 1 else 0

end Sys2Proof.Machine
end

