-- ==== Sys2Proof/Machine/Xs.lean ====
section
/-! DEFINITION. The XS unit's commands (R151 to R153, R156, R158 to R160), legal as R150 says. -/

namespace Sys2Proof.Machine

/-- `XS_INIT` (R151): legal in every unit state. -/
def execXsInit (reserved : BitVec 32) (s : State) : Host.Outcome State Fault Refusal :=
  runCommand opXsInit [(reservedSet reserved, .arg)] { s with xs := xsBeginSeeding s.xs } 0 s

/-- `XS_SEED word` (R152). -/
def execXsSeed (word : Word) (s : State) : Host.Outcome State Fault Refusal :=
  runCommand opXsSeed [(s.xs.st != .seeding, .seq)] { s with xs := xsTakeSeed word s.xs } 0 s

/-- `XS_START` (R153). -/
def execXsStart (reserved : BitVec 32) (s : State) : Host.Outcome State Fault Refusal :=
  runCommand opXsStart [(reservedSet reserved, .arg), (s.xs.st != .seeding, .seq)] { s with xs := xsWarmUp s.xs } 0 s

/-- `XS_NEXT` (R156): the draw itself. -/
def execXsNext (reserved : BitVec 32) (s : State) : Host.Outcome State Fault Refusal :=
  runCommand opXsNext [(reservedSet reserved, .arg), (s.xs.st != .ready, .seq)] { s with xs := drawState s.xs }
    (drawValue s.xs) s

/-- `XS_INT min, max` (R158). -/
def execXsInt (min max : BitVec 16) (s : State) : Host.Outcome State Fault Refusal :=
  runCommand opXsInt [(s.xs.st != .ready, .seq)] { s with xs := drawState s.xs }
    (scaleInt (signed16 min) (signed16 max) (drawValue s.xs)) s

/-- `XS_PICK length` (R159): length 0 is refused before the unit state is looked at (R233). -/
def execXsPick (length : Word) (s : State) : Host.Outcome State Fault Refusal :=
  runCommand opXsPick [(length == 0, .arg), (s.xs.st != .ready, .seq)] { s with xs := drawState s.xs }
    (scalePick length (drawValue s.xs)) s

/-- `XS_BOOL threshold` (R160). -/
def execXsBool (threshold : Word) (s : State) : Host.Outcome State Fault Refusal :=
  runCommand opXsBool [(s.xs.st != .ready, .seq)] { s with xs := drawState s.xs }
    (belowThreshold threshold (drawValue s.xs)) s

end Sys2Proof.Machine
end

