-- ==== Sys2Proof/Machine/Stored.lean ====
section
/-! DEFINITION. The zlib stream's pieces (R72, R200, R201) and what the ZS commands do to the ZS and AD units (R202 to R204). -/

namespace Sys2Proof.Machine

/-- `LEN = min(zs_remain, 65535)` (R201 step 1). -/
def blockLen (remain : Word) : BitVec 16 := BitVec.ofNat 16 (min remain.toNat zsBlockMax)

/-- The low byte of a 16-bit value. -/
def lowByte (v : BitVec 16) : Byte := v.extractLsb' 0 8

/-- The high byte of a 16-bit value. -/
def highByte (v : BitVec 16) : Byte := v.extractLsb' 8 8

/-- The byte with `BFINAL` in bit 0 and `BTYPE = 00` (R72): 1 when the block holds all that remains (R201 step 2). -/
def finalByte (remain : Word) : Byte := if remain.toNat ≤ zsBlockMax then 0x01 else 0x00

/-- The five bytes of `blkhdr()` (R201 step 4): `LEN` and its complement, each low byte first (R72). -/
def blockHeader (remain : Word) : List Byte :=
  let len := blockLen remain
  [finalByte remain, lowByte len, highByte len, lowByte (~~~len), highByte (~~~len)]

/-- `b[15:8], b[7:0], a[15:8], a[7:0]` (R204 step 4, R71): the big-endian trailer. -/
def adlerTrailer (u : AdUnit) : List Byte := [highByte u.b, lowByte u.b, highByte u.a, lowByte u.a]

/-- Steps 2 to 5 of `ZS_BEGIN` (R202): the stream opens, its Adler-32 starts, header and first block header go out. -/
def openStream (length : Word) (s : State) : State :=
  emit ([zsCmf, zsFlg] ++ blockHeader length)
    { s with zs := { isOpen := true, remain := length, blkrem := blockLen length }, ad := .reset }

/-- The counters after one payload byte (R203 steps 6 and 7): a new block starts when this one is done and bytes remain. -/
def countByte (u : ZsUnit) : ZsUnit :=
  let remain := u.remain - 1
  let blkrem := u.blkrem - 1
  { u with remain := remain, blkrem := if blkrem = 0 ∧ remain ≠ 0 then blockLen remain else blkrem }

/-- What `ZS_DATA` emits (R203 steps 4 and 7): the byte, and the next block's header if one starts. -/
def dataBytes (byte : Byte) (u : ZsUnit) : List Byte :=
  let remain := u.remain - 1
  if u.blkrem - 1 = 0 ∧ remain ≠ 0 then byte :: blockHeader remain else [byte]

/-- Steps 4 to 7 of `ZS_DATA` (R203). -/
def passByte (byte : Byte) (s : State) : State :=
  emit (dataBytes byte s.zs) { s with ad := adlerStep byte s.ad, zs := countByte s.zs }

/-- Steps 4 and 5 of `ZS_END` (R204). -/
def closeStream (s : State) : State := emit (adlerTrailer s.ad) { s with zs := { s.zs with isOpen := false } }

end Sys2Proof.Machine
end

