-- ==== Sys2Proof/Machine/Zs.lean ====
section
/-! DEFINITION. The ZS unit's commands (R202 to R204), legal as R206 says. -/

namespace Sys2Proof.Machine

/-- `ZS_BEGIN length` (R202). -/
def execZsBegin (length : Word) (s : State) : Host.Outcome State Fault Refusal :=
  runCommand opZsBegin [(s.zs.isOpen, .seq)] (openStream length s) 0 s

/-- `ZS_DATA byte` (R203). -/
def execZsData (reserved : BitVec 24) (byte : Byte) (s : State) : Host.Outcome State Fault Refusal :=
  runCommand opZsData [(reservedSet reserved, .arg), (!s.zs.isOpen, .seq), (s.zs.remain == 0, .len)] (passByte byte s) 0 s

/-- `ZS_END` (R204). -/
def execZsEnd (reserved : BitVec 32) (s : State) : Host.Outcome State Fault Refusal :=
  runCommand opZsEnd [(reservedSet reserved, .arg), (!s.zs.isOpen, .seq), (s.zs.remain != 0, .len)] (closeStream s) 0 s

end Sys2Proof.Machine
end

