-- ==== Sys2Proof/Machine/Dispatch.lean ====
section
/-! DEFINITION. The meaning of every command, one arm each. -/

namespace Sys2Proof.Machine

def exec (i : Instr) (s : State) : Host.Outcome State Fault Refusal :=
  match i with
  | .sysNop r => Sys2Proof.Machine.execSysNop r s
  | .sysReset r => Sys2Proof.Machine.execSysReset r s
  | .sysRdcsr r index => Sys2Proof.Machine.execSysRdcsr r index s
  | .sysClrerr r => Sys2Proof.Machine.execSysClrerr r s
  | .shaInit r => Sys2Proof.Machine.execShaInit r s
  | .shaUpdate r byte => Sys2Proof.Machine.execShaUpdate r byte s
  | .shaFinal r => Sys2Proof.Machine.execShaFinal r s
  | .shaRead r index => Sys2Proof.Machine.execShaRead r index s
  | .xsInit r => Sys2Proof.Machine.execXsInit r s
  | .xsSeed word => Sys2Proof.Machine.execXsSeed word s
  | .xsStart r => Sys2Proof.Machine.execXsStart r s
  | .xsNext r => Sys2Proof.Machine.execXsNext r s
  | .xsInt min max => Sys2Proof.Machine.execXsInt min max s
  | .xsPick length => Sys2Proof.Machine.execXsPick length s
  | .xsBool threshold => Sys2Proof.Machine.execXsBool threshold s
  | .crcInit r => Sys2Proof.Machine.execCrcInit r s
  | .crcUpdate r byte => Sys2Proof.Machine.execCrcUpdate r byte s
  | .crcRead r => Sys2Proof.Machine.execCrcRead r s
  | .adInit r => Sys2Proof.Machine.execAdInit r s
  | .adUpdate r byte => Sys2Proof.Machine.execAdUpdate r byte s
  | .adRead r => Sys2Proof.Machine.execAdRead r s
  | .zsBegin length => Sys2Proof.Machine.execZsBegin length s
  | .zsData r byte => Sys2Proof.Machine.execZsData r byte s
  | .zsEnd r => Sys2Proof.Machine.execZsEnd r s

end Sys2Proof.Machine
end

