-- ==== Sys2Proof/Machine/Port.lean ====
section
/-! DEFINITION. What the block does with one host event: a command word is decoded and run (R95, R61), a hard reset resets
every unit, cutting a command short if one was executing (R260). -/

namespace Sys2Proof.Machine

/-- One command word: the command it decodes to, or the error response `ERR_ILLOP` (R95, R232). -/
def runWord (cw : CommandWord) (s : State) : Host.Outcome State Fault Refusal :=
  match decode cw with
  | .ok i => exec i s
  | .error (.illegalOpcode op) => .next (raiseErr op .illop s)

/-- One host event (R61, R260). The words presented while reset is asserted are not executed. -/
def takeEvent (e : HostEvent) (s : State) : Host.Outcome State Fault Refusal :=
  match e with
  | .command cw => runWord cw s
  | .hardReset none _ => .next (resetUnits s)
  | .hardReset (some cw) _ =>
    match runWord cw s with
    | .next t => .next (cutShort s t)
    | .fault r => .fault r
    | .refused r => .refused r

/-- The host presents `cw` as the very next event (R61). -/
def presentWord (cw : CommandWord) (s : State) : State := { s with port := .command cw :: s.port }

/-- The machine takes the next host event from its port (R80); with none it idles and keeps its state (R4, R240). -/
def takeNext (s : State) : Host.Outcome State Fault Refusal :=
  match s.port with
  | [] => .next s
  | e :: rest => takeEvent e { s with port := rest }

end Sys2Proof.Machine
end

