-- ==== Sys2Proof/Machine/Step.lean ====
section
/-! DEFINITION. One step of the machine: the next host event, to completion (R4, R80). -/

namespace Sys2Proof.Machine

/-- One step (R80): the state after it, with the command's response and bytes at the ports. -/
def step (s : State) : Host.Outcome State Fault Refusal := takeNext s

/-- `s` with the opcode-table word `w` of `nbits` bits presented as the next command (log 3). -/
def State.withFetchWord (s : State) (nbits w : Nat) : State := presentWord (tableWord nbits w) s

end Sys2Proof.Machine
end

