-- ==== Sys2Proof/Machine/Streams.lean ====
section
/-! DEFINITION. What the command sequences of a whole message or payload compute, stated on byte lists: the SHA-256 digest
(R126, R128), the CRC-32 and Adler-32 of a byte list (R183, R193), and the zlib stream of a payload (R200). The machine
does not use them; statements compare it with them. -/

namespace Sys2Proof.Machine

/-- A 32-bit word as four bytes, most significant first (R68, R70, R71). -/
def bigEndian32 (w : Word) : List Byte :=
  [w.extractLsb' 24 8, w.extractLsb' 16 8, w.extractLsb' 8 8, w.extractLsb' 0 8]

/-- A 16-bit value as two bytes, least significant first (R72). -/
def littleEndian16 (v : BitVec 16) : List Byte := [lowByte v, highByte v]

/-- The word of four bytes, the first most significant (R68, R69). -/
def wordOfBytes (d0 d1 d2 d3 : Byte) : Word := d0 ++ d1 ++ d2 ++ d3

/-- Byte `j` of a byte list. -/
def byteAt (bytes : List Byte) (j : Nat) : Byte := bytes.getD j 0

/-- The big-endian 32-bit words of a byte list; a trailing partial chunk is dropped (R68, R69, R74). -/
def wordsOfBytes (bytes : List Byte) : List Word :=
  (List.range (bytes.length / 4)).map fun k =>
    wordOfBytes (byteAt bytes (4 * k)) (byteAt bytes (4 * k + 1)) (byteAt bytes (4 * k + 2)) (byteAt bytes (4 * k + 3))

/-- The least `k` with `n + 1 + k` congruent to 56 modulo 64: the zero bytes of the padding (R126). -/
def paddingZeros (n : Nat) : Nat := (119 - n % 64) % 64

/-- The message with its padding: `0x80`, zeros, and the bit length as a 64-bit big-endian number (R126, R68). -/
def paddedMessage (m : List Byte) : List Byte :=
  let bits : BitVec 64 := BitVec.ofNat 64 (8 * m.length)
  m ++ [0x80] ++ List.replicate (paddingZeros m.length) 0x00 ++ bigEndian32 (bits.extractLsb' 32 32)
    ++ bigEndian32 (bits.extractLsb' 0 32)

/-- The 64-byte blocks of a byte list, each as sixteen words. -/
def messageBlocks (bytes : List Byte) : List (List Word) :=
  (List.range (bytes.length / 64)).map fun j => wordsOfBytes ((bytes.drop (64 * j)).take 64)

/-- The SHA-256 digest of a message as eight words (R128). -/
def sha256 (m : List Byte) : Vector Word 8 := (messageBlocks (paddedMessage m)).foldl compressWords shaIV

/-- The CRC-32 of a byte list (R180 to R183). -/
def crc32 (bytes : List Byte) : Word := crcResult (bytes.foldl crcStep crcStart)

/-- The two Adler sums of a byte list (R190 to R192). -/
def adlerSums (bytes : List Byte) : AdUnit := bytes.foldl (fun u byte => adlerStep byte u) .reset

/-- The Adler-32 of a byte list (R193). -/
def adler32 (bytes : List Byte) : Word := adlerResult (adlerSums bytes)

/-- `m = max(1, ceil(n / 65535))` (R200). -/
def blockCount (n : Nat) : Nat := max 1 ((n + (zsBlockMax - 1)) / zsBlockMax)

/-- Stored block `k + 1` of the `m` blocks of payload `p` (R200). -/
def storedBlock (p : List Byte) (m k : Nat) : List Byte :=
  let data := (p.drop (zsBlockMax * k)).take zsBlockMax
  let len := BitVec.ofNat 16 data.length
  (if k + 1 = m then 0x01 else 0x00) :: littleEndian16 len ++ littleEndian16 (len ^^^ 0xFFFF) ++ data

/-- The zlib stream of payload `p` (R200): header, blocks, big-endian Adler-32. -/
def zlibStream (p : List Byte) : List Byte :=
  let m := blockCount p.length
  [zsCmf, zsFlg] ++ (List.range m).flatMap (storedBlock p m) ++ bigEndian32 (adler32 p)

end Sys2Proof.Machine
end

