-- ==== Sys2Proof/Machine/HostSide.lean ====
section
/-! DEFINITION. The host's side of the block, which the block knows nothing of: issuing commands (R61), the
pseudo-instructions of R99, seed words from bytes and digests (R69, R74, R162), and the values a draw stands for (R157,
R160, R163). -/

namespace Sys2Proof.Machine

/-- The command words of a list of commands, presented in order on the command port (R61, R80). -/
def commandEvents (program : List Instr) : List HostEvent := program.map fun i => .command (encode i)

/-- The machine with the commands of `program` presented ahead of whatever is waiting. -/
def issue (program : List Instr) (s : State) : State := { s with port := commandEvents program ++ s.port }

/-- The commands of a program one after another, each on the state the one before left (R80); the first that does not leave a
next state ends it. -/
def runProgram : List Instr → State → Host.Outcome State Fault Refusal
  | [], s => .next s
  | i :: rest, s =>
    match exec i s with
    | .next t => runProgram rest t
    | .fault r => .fault r
    | .refused r => .refused r

/-! The pseudo-instructions of R99, each a fixed sequence of commands. -/

/-- `SHA_MSG`. -/
def shaMsg (m : List Byte) : List Instr := m.map (.shaUpdate 0)

/-- `SHA_HASH`. -/
def shaHash (m : List Byte) : List Instr := [.shaInit 0] ++ shaMsg m ++ [.shaFinal 0]

/-- `SHA_DIGEST`: the host concatenates the eight results. -/
def shaDigest : List Instr := (List.range 8).map fun i => .shaRead 0 (BitVec.ofNat 3 i)

/-- `XS_SEEDV`. -/
def xsSeedV (seeds : List Word) : List Instr := [.xsInit 0] ++ seeds.map .xsSeed ++ [.xsStart 0]

/-- `XS_SEEDB`: the host packs bytes into big-endian words and drops a trailing partial chunk (R69, R74). -/
def xsSeedB (bytes : List Byte) : List Instr := xsSeedV (wordsOfBytes bytes)

/-- `XS_SEEDSHA`, first part: the digest is read word by word. -/
def xsSeedShaReads : List Instr := shaDigest

/-- `XS_SEEDSHA`, second part, for the results `r0, …, r7` of the reads. -/
def xsSeedShaSeeds (results : Vector Word 8) : List Instr := xsSeedV results.toList

/-- `XS_RANGE`: one draw; the host scales it with `rangeValue`. -/
def xsRange : List Instr := [.xsNext 0]

/-- `CRC_MSG`. -/
def crcMsg (bytes : List Byte) : List Instr := bytes.map (.crcUpdate 0)

/-- `AD_MSG`. -/
def adMsg (bytes : List Byte) : List Instr := bytes.map (.adUpdate 0)

/-- `ZS_STREAM`: the payload's length, its bytes, the end. -/
def zsStream (p : List Byte) : List Instr :=
  [.zsBegin (BitVec.ofNat 32 p.length)] ++ p.map (.zsData 0) ++ [.zsEnd 0]

/-! What the host computes from results. -/

/-- `ST` of a response word (R92). -/
def responseStatus (r : ResponseWord) : BitVec 4 := r.extractLsb' 32 4

/-- `RES` of a response word (R92). -/
def responseResult (r : ResponseWord) : Word := r.extractLsb' 0 32

/-- The 32 digest bytes: each word big-endian, `H[0]` first (R68). -/
def digestBytes (h : Vector Word 8) : List Byte := h.toList.flatMap bigEndian32

/-- A lowercase hexadecimal digit. -/
def hexDigit (v : BitVec 4) : Char := "0123456789abcdef".toList.getD v.toNat '0'

/-- The digest as 64 lowercase hexadecimal digits (R68). -/
def digestHex (h : Vector Word 8) : List Char :=
  (digestBytes h).flatMap fun b => [hexDigit (b.extractLsb' 4 4), hexDigit (b.extractLsb' 0 4)]

/-- The exact fraction `U / 2^32` a draw's result stands for (R157). -/
def drawFraction (u : Word) : Rat := (u.toNat : Rat) / 2 ^ 32

/-- The exact value of `range(min, max)` for one draw (R163). -/
def rangeValue (min max : Rat) (u : Word) : Rat := min + drawFraction u * (max - min)

/-- The threshold `ceil(p * 2^32)` of a probability `p` (R160), 0 for `p <= 0` (U7); none where it is not below 2^32 (R98). -/
def thresholdOf (p : Rat) : Option Word :=
  let t := (p * 2 ^ 32).ceil.toNat
  if t < 2 ^ 32 then some (BitVec.ofNat 32 t) else none

/-- The one drawing command of `bool(p)`: `XS_BOOL` with the threshold, or `XS_NEXT` where there is none (R160, U7). -/
def boolCommand (p : Rat) : Instr :=
  match thresholdOf p with
  | some t => .xsBool t
  | none => .xsNext 0

/-- What the host takes as `bool(p)` from the command's result: always true where there is no threshold (R160, U7; for `p` below
1 without a threshold, log 14). -/
def boolAnswer (p : Rat) (res : Word) : Bool :=
  match thresholdOf p with
  | some _ => res == 1
  | none => true

end Sys2Proof.Machine
end

