-- ==== Sys2Proof/WellFormed.lean ====
section
/-! DEFINITION. The operand check of R94, as a Bool: which commands pass it. A command that fails it is still a command (it
answers `ERR_ARG`), so the machine also runs ill-formed ones. -/

namespace Sys2Proof

/-- The operand check of R94: the reserved bits are 0, a CSR index is at most 12, and `XS_PICK`'s length is not 0. -/
def Instr.wellFormed : Instr → Bool
  | .sysNop r | .sysReset r | .sysClrerr r | .shaInit r | .shaFinal r | .xsInit r | .xsStart r | .xsNext r
  | .crcInit r | .crcRead r | .adInit r | .adRead r | .zsEnd r => r == 0
  | .shaUpdate r _ | .crcUpdate r _ | .adUpdate r _ | .zsData r _ => r == 0
  | .sysRdcsr r index => r == 0 && index ≤ 12
  | .shaRead r _ => r == 0
  | .xsPick length => length != 0
  | .xsSeed _ | .xsInt _ _ | .xsBool _ | .zsBegin _ => true

end Sys2Proof
end

