-- ==== Sys2Proof/Safety.lean ====
section
/-! DEFINITION. What a good state is (the invariants of R30), and the terms the statements use: the two kinds of answer (R92,
R232), the unit of a command (R90), and when a command answers which status (R129, R150, R206, R231, R233). -/

namespace Sys2Proof.Machine

/-- The invariants that hold after reset and after every command (R30), by item; item 6's first half is part of item 5. -/
structure State.Inv (s : State) : Prop where
  /-- The buffer keeps its canonical form. -/
  buffer : Memory.wf s.sha.buf
  /-- Item 1: `sha_fill = sha_len mod 64` in `ABSORB`. -/
  absorbFill : s.sha.done = false → s.sha.fill.toNat = s.sha.len.toNat % 64
  /-- Item 1: `sha_fill = 0` in `DONE`. -/
  doneFill : s.sha.done = true → s.sha.fill = 0
  /-- Item 2. -/
  adlerA : s.ad.a.toNat ≤ 65520
  /-- Item 2. -/
  adlerB : s.ad.b.toNat ≤ 65520
  /-- Item 3. -/
  idleCounts : s.zs.isOpen = false → s.zs.remain = 0 ∧ s.zs.blkrem = 0
  /-- Item 4. -/
  openBound : s.zs.isOpen = true → s.zs.blkrem.toNat ≤ s.zs.remain.toNat
  /-- Item 4. -/
  openZero : s.zs.isOpen = true → (s.zs.blkrem = 0 ↔ s.zs.remain = 0)
  /-- Items 5 and 6. -/
  unseeded : s.xs.st = .unseeded → s.xs.s0 = xsFallback0 ∧ s.xs.s1 = xsFallback1 ∧ s.xs.cnt = 0
  /-- Item 7. -/
  noError : s.err.err = false → s.err.code = 0 ∧ s.err.op = 0
  /-- Item 7. -/
  errorCode : s.err.err = true → 1 ≤ s.err.code.toNat ∧ s.err.code.toNat ≤ 5

/-- What an error response leaves, written out from R232: `err`, the first error's code and opcode, the response. -/
def errorAnswer (op : BitVec 8) (status : BitVec 4) (s : State) : State :=
  { s with
    err := if s.err.err then s.err else { err := true, code := status, op := op }
    responses := s.responses ++ [responseWord status 0] }

/-- `t` with the response `(OK, res)` (R92). -/
def okAnswer (res : Word) (t : State) : State := { t with responses := t.responses ++ [responseWord 0 res] }

/-- The unit number of a command, `OP[7:4]` (R90, R2). -/
def unitOf (i : Instr) : BitVec 4 := i.opcode.extractLsb' 4 4

/-- The AD unit's registers are in use by an open stream (R231, `ERR_BUSY`). -/
def busyFor (i : Instr) (s : State) : Bool :=
  match i with
  | .adInit _ | .adUpdate _ _ => s.zs.isOpen
  | _ => false

/-- The command is not legal in its unit's present state (R129, R150, R206; R231, `ERR_SEQ`). -/
def outOfSequence (i : Instr) (s : State) : Bool :=
  match i with
  | .shaUpdate _ _ | .shaFinal _ => s.sha.done
  | .shaRead _ _ => !s.sha.done
  | .xsSeed _ | .xsStart _ => s.xs.st != .seeding
  | .xsNext _ | .xsInt _ _ | .xsPick _ | .xsBool _ => s.xs.st != .ready
  | .zsBegin _ => s.zs.isOpen
  | .zsData _ _ | .zsEnd _ => !s.zs.isOpen
  | _ => false

/-- A length limit stands against the command (R231, `ERR_LEN`). -/
def overLength (i : Instr) (s : State) : Bool :=
  match i with
  | .shaUpdate _ _ => s.sha.len.toNat == 2 ^ 61 - 1
  | .zsData _ _ => s.zs.remain.toNat == 0
  | .zsEnd _ => s.zs.remain.toNat != 0
  | _ => false

/-- The status a command answers, by the causes of R231 in the order of R233. -/
def expectedStatus (i : Instr) (s : State) : BitVec 4 :=
  if i.wellFormed = false then 2
  else if busyFor i s then 4
  else if outOfSequence i s then 3
  else if overLength i s then 5
  else 0

/-- The matrix of R231: which command can raise which code; none raises `ERR_ILLOP`. -/
def canRaise (i : Instr) (code : ErrorCode) : Bool :=
  match code with
  | .illop => false
  | .arg =>
    match i with
    | .xsSeed _ | .xsInt _ _ | .xsBool _ | .zsBegin _ => false
    | _ => true
  | .seq =>
    match i with
    | .shaUpdate _ _ | .shaFinal _ | .shaRead _ _ | .xsSeed _ | .xsStart _ | .xsNext _ | .xsInt _ _ | .xsPick _
    | .xsBool _ | .zsBegin _ | .zsData _ _ | .zsEnd _ => true
    | _ => false
  | .busy =>
    match i with
    | .adInit _ | .adUpdate _ _ => true
    | _ => false
  | .len =>
    match i with
    | .shaUpdate _ _ | .zsData _ _ | .zsEnd _ => true
    | _ => false

/-- The 232 opcodes that R95 lists as illegal. -/
def illegalOp (op : BitVec 8) : Bool :=
  [(0x04, 0x0F), (0x14, 0x1F), (0x27, 0x2F), (0x33, 0x3F), (0x43, 0x4F), (0x53, 0x5F), (0x60, 0xFF)].any
    fun r => decide (r.1 ≤ op.toNat ∧ op.toNat ≤ r.2)

/-- When `ARG` passes the check of R94 for an opcode, by the table of R94. -/
def argPasses (op : BitVec 8) (arg : Word) : Bool :=
  match (opcodeTable.find? fun row => row.op == op).map OpcodeRow.format with
  | some .n => arg == 0
  | some .b => decide (arg.toNat ≤ 255)
  | some .w => op != opXsPick || arg != 0
  | some .p => true
  | some .i3 => decide (arg.toNat ≤ 7)
  | some .i4 => decide (arg.toNat ≤ 12)
  | none => false

/-- A drawing command that passes its operand check (R156, R158 to R160). -/
def isDraw : Instr → Bool
  | .xsNext r => r == 0
  | .xsInt _ _ | .xsBool _ => true
  | .xsPick length => length != 0
  | _ => false

/-- What a drawing command makes of the drawn value `U` (R156, R158 to R160). -/
def drawResult (i : Instr) (u : Word) : Word :=
  match i with
  | .xsInt min max => scaleInt min.toInt max.toInt u
  | .xsPick length => scalePick length u
  | .xsBool threshold => belowThreshold threshold u
  | _ => u

/-- A command of the ZS unit. -/
def isZs : Instr → Bool
  | .zsBegin _ | .zsData _ _ | .zsEnd _ => true
  | _ => false

/-- `SYS_RESET` with its operand check passed. -/
def isReset : Instr → Bool
  | .sysReset r => r == 0
  | _ => false

end Sys2Proof.Machine
end

