-- ==== Sys2Proof/Certificates/Slice0/Obligations.lean ====
section
/-! DEFINITION. The statements for the provers. -/

open Sys2Proof Sys2Proof.Machine

/-! Encoding (R90, R91, R93 to R95). -/

/-- Decoding the encoding of any command, ill-formed ones too, gives it back: no bit of an encoding is dropped. -/
def Obligations.DecodeEncodeAgree : Prop := ∀ i : Instr, decode (encode i) = .ok i

/-- A command word has at most one reading: the encoding of what it decodes to is the word itself. -/
def Obligations.EncodeDecodeAgree : Prop := ∀ (cw : CommandWord) (i : Instr), decode cw = .ok i → encode i = cw

/-- A word that decodes is selected by exactly one row of the opcode map, the row of its command; a word that does not is
selected by none (R93, R95). -/
def Obligations.OpcodeMapSelects : Prop :=
  ∀ cw : CommandWord,
    match decode cw with
    | .ok i => ∃ row, opcodeTable.filter (·.selects cw) = [row] ∧ row.op = i.opcode ∧ row.op = opField cw
    | .error e => opcodeTable.filter (·.selects cw) = [] ∧ e = .illegalOpcode (opField cw)

/-- R95: the 232 illegal opcodes, whatever `ARG`, answer `ERR_ILLOP` and leave everything but the error record; every other
word decodes. -/
def Obligations.IllegalOpcodesAnswerIllop : Prop :=
  ((List.range 256).filter fun n => illegalOp (BitVec.ofNat 8 n)).length = 232 ∧
  ∀ (cw : CommandWord) (s : State),
    (illegalOp (opField cw) = true → runWord cw s = .next (errorAnswer (opField cw) 1 s)) ∧
    (illegalOp (opField cw) = false → ∃ i, decode cw = .ok i ∧ runWord cw s = exec i s)

/-- Words written out from R93's encodings decode to the commands they stand for. -/
def Obligations.SampleWordsDecode : Prop :=
  decode 0x0000000000 = .ok (.sysNop 0) ∧ decode 0x020000000C = .ok (.sysRdcsr 0 12) ∧
  decode 0x1100000061 = .ok (.shaUpdate 0 0x61) ∧ decode 0x13FFFFFFFF = .ok (.shaRead 0x1FFFFFFF 7) ∧
  decode 0x24FFFB0005 = .ok (.xsInt (-5) 5) ∧ decode 0x3100000100 = .ok (.crcUpdate 1 0) ∧
  decode 0x4200000000 = .ok (.adRead 0) ∧ decode 0x50FFFFFFFF = .ok (.zsBegin 0xFFFFFFFF) ∧
  decode 0xFF12345678 = .error (.illegalOpcode 0xFF)

/-- A step runs the decoded command: when the next host event is a word that decodes to `i`, the step is `exec i` on the
state with that event taken. -/
def Obligations.StepRunsDecodedCommand : Prop :=
  (∀ (s : State) (cw : CommandWord) (rest : List HostEvent) (i : Instr), s.port = .command cw :: rest →
    decode cw = .ok i → step s = exec i { s with port := rest }) ∧
  ∀ (i : Instr) (s : State), step (s.withFetchWord 40 (encode i).toNat) = exec i s

/-- R94: a command with a reserved bit set, a reserved CSR index or a zero `XS_PICK` length answers `ERR_ARG` in every state;
which operands those are is the table of R94; a command that passes never answers `ERR_ARG`. -/
def Obligations.OperandCheckAnswersErrArg : Prop :=
  (∀ i : Instr, i.wellFormed = argPasses i.opcode i.arg) ∧
  (∀ (i : Instr) (s : State), i.wellFormed = false → exec i s = .next (errorAnswer i.opcode 2 s)) ∧
  ∀ (i : Instr) (s : State), i.wellFormed = true →
    ∃ t r, exec i s = .next t ∧ t.responses = s.responses ++ [r] ∧ responseStatus r ≠ 2

/-! Errors (R230 to R234). -/

/-- R232: what raising an error does, first and later errors, and that an error pending masks nothing: a command does the
same to every unit and answers the same status whatever the error record holds. -/
def Obligations.ErrorResponseEffect : Prop :=
  (∀ (op : BitVec 8) (code : ErrorCode) (s : State), raiseErr op code s = errorAnswer op (errorStatus code) s) ∧
  (∀ (op : BitVec 8) (st : BitVec 4) (s : State), s.err.err = true → (errorAnswer op st s).err = s.err) ∧
  ∀ (i : Instr) (e : ErrorRecord) (s : State), ∃ t t' r r',
    exec i s = .next t ∧ exec i { s with err := e } = .next t' ∧
    t.responses = s.responses ++ [r] ∧ t'.responses = s.responses ++ [r'] ∧ responseStatus r = responseStatus r' ∧
    t'.sha = t.sha ∧ t'.xs = t.xs ∧ t'.crc = t.crc ∧ t'.ad = t.ad ∧ t'.zs = t.zs ∧ t'.out = t.out

/-- R62, R231, R233: every command word leaves a next state and exactly one response word; its status is that of the first
cause in the order of R233, and an error answers 0 and changes nothing but the error record. -/
def Obligations.EveryWordAnswersItsStatus : Prop :=
  ∀ (cw : CommandWord) (s : State), ∃ t r, runWord cw s = .next t ∧ t.responses = s.responses ++ [r] ∧
    responseStatus r = (match decode cw with | .ok i => expectedStatus i s | .error _ => 1) ∧
    (responseStatus r ≠ 0 → t = errorAnswer (opField cw) (responseStatus r) s)

/-- The matrix of R231: a command answers an error code only where the matrix has a mark, and for every mark some command of
that opcode answers it in some state. -/
def Obligations.ErrorMatrixExact : Prop :=
  (∀ (i : Instr) (s : State) (code : ErrorCode),
    exec i s = .next (errorAnswer i.opcode (errorStatus code) s) → canRaise i code = true) ∧
  ∀ (i : Instr) (code : ErrorCode), canRaise i code = true →
    ∃ (j : Instr) (s : State), j.opcode = i.opcode ∧ exec j s = .next (errorAnswer i.opcode (errorStatus code) s)

/-! The SYS unit (R220 to R223, R40 to R50, R55). -/

/-- R220: `SYS_NOP` answers `OK` and changes nothing; with a reserved bit it answers `ERR_ARG`. -/
def Obligations.SysNopChangesNothing : Prop :=
  encode (.sysNop 0) = 0x0000000000 ∧
  ∀ s : State, exec (.sysNop 0) s = .next (okAnswer 0 s) ∧
    ∀ r : BitVec 32, r ≠ 0 → exec (.sysNop r) s = .next (errorAnswer 0x00 2 s)

/-- `SYS_RESET` leaves every unit as after reset, in every state, and so does a hard reset between two commands (R221); bytes on
`OUT` stay (R63). That the responses already given, the waiting host events and the model's own counter stay too is the
model's choice (logs 5 and 13), not R221's. -/
def Obligations.SysResetRestoresUnits : Prop :=
  encode (.sysReset 0) = 0x0100000000 ∧
  ∀ s : State,
    exec (.sysReset 0) s = .next { State.reset with
      port := s.port, responses := s.responses ++ [responseWord 0 0], out := s.out, cutCount := s.cutCount } ∧
    step { s with port := .hardReset none [] :: s.port } = .next { State.reset with
      port := s.port, responses := s.responses, out := s.out, cutCount := s.cutCount } ∧
    ∀ r : BitVec 32, r ≠ 0 → exec (.sysReset r) s = .next (errorAnswer 0x01 2 s)

/-- R55: the value of every piece of state after reset. -/
def Obligations.ResetValues : Prop :=
  let s := State.reset
  s.sha.h = #v[0x6a09e667, 0xbb67ae85, 0x3c6ef372, 0xa54ff53a, 0x510e527f, 0x9b05688c, 0x1f83d9ab, 0x5be0cd19] ∧
  (∀ a : BitVec 6, s.sha.buf.read a = 0x00) ∧ s.sha.fill = 0 ∧ s.sha.len = 0 ∧ s.sha.done = false ∧
  s.xs.s0 = xsFallback0 ∧ s.xs.s1 = xsFallback1 ∧ xsFallback0 ≠ 0 ∧ xsFallback1 ≠ 0 ∧ xsFallback1 ≠ xsFallback0 ∧
  s.xs.st = .unseeded ∧ s.xs.cnt = 0 ∧ s.crc = 0xFFFFFFFF ∧ s.ad.a = 1 ∧ s.ad.b = 0 ∧
  s.zs.isOpen = false ∧ s.zs.remain = 0 ∧ s.zs.blkrem = 0 ∧ s.err.err = false ∧ s.err.code = 0 ∧ s.err.op = 0

/-- `SYS_RDCSR` answers the register's value for the indices 0 to 12, bit field by bit field, and changes nothing; a reserved
index or a reserved bit answers `ERR_ARG` (R222, R41 to R50). -/
def Obligations.SysRdcsrReadsView : Prop :=
  encode (.sysRdcsr 0 1) = 0x0200000001 ∧
  ∀ s : State, ∃ v : Nat → Word,
    (∀ k : BitVec 4, k.toNat ≤ 12 → exec (.sysRdcsr 0 k) s = .next (okAnswer (v k.toNat) s)) ∧
    (∀ (r : BitVec 28) (k : BitVec 4), r ≠ 0 ∨ 12 < k.toNat → exec (.sysRdcsr r k) s = .next (errorAnswer 0x02 2 s)) ∧
    (v 0).getLsbD 0 = s.sha.done ∧
    ((v 0).extractLsb' 1 2).toNat = (match s.xs.st with | .unseeded => 0 | .seeding => 1 | .ready => 2) ∧
    (v 0).getLsbD 3 = s.zs.isOpen ∧ (v 0).getLsbD 4 = s.err.err ∧ (v 0).toNat < 2 ^ 5 ∧
    (v 1).extractLsb' 0 4 = s.err.code ∧ (v 1).extractLsb' 4 4 = 0 ∧ (v 1).extractLsb' 8 8 = s.err.op ∧
    (v 1).toNat < 2 ^ 16 ∧
    (v 2).toNat = s.sha.len.toNat % 2 ^ 32 ∧ (v 3).toNat = s.sha.len.toNat / 2 ^ 32 ∧
    v 4 = s.xs.s0 ∧ v 5 = s.xs.s1 ∧ (v 6).toNat = s.xs.cnt.val ∧ v 7 = s.crc ∧
    (v 8).toNat = s.ad.a.toNat ∧ (v 9).toNat = s.ad.b.toNat ∧
    v 10 = s.zs.remain ∧ (v 11).toNat = s.zs.blkrem.toNat ∧ (v 12).toNat = s.sha.fill.toNat

/-- R223: `SYS_CLRERR` empties the error record and changes no unit; one that is refused clears nothing. -/
def Obligations.SysClrerrEmptiesRecord : Prop :=
  encode (.sysClrerr 0) = 0x0300000000 ∧
  ∀ s : State,
    exec (.sysClrerr 0) s = .next (okAnswer 0 { s with err := { err := false, code := 0, op := 0 } }) ∧
    ∀ r : BitVec 32, r ≠ 0 → exec (.sysClrerr r) s = .next (errorAnswer 0x03 2 s)

/-! The SHA unit (R120 to R130). -/

/-- R124: `SHA_INIT` starts a new message in either unit state. -/
def Obligations.ShaInitRestarts : Prop :=
  encode (.shaInit 0) = 0x1000000000 ∧
  ∀ s : State,
    (∃ u : ShaUnit, exec (.shaInit 0) s = .next (okAnswer 0 { s with sha := u }) ∧
      u.h = #v[0x6a09e667, 0xbb67ae85, 0x3c6ef372, 0xa54ff53a, 0x510e527f, 0x9b05688c, 0x1f83d9ab, 0x5be0cd19] ∧
      (∀ a : BitVec 6, u.buf.read a = 0x00) ∧ u.fill = 0 ∧ u.len = 0 ∧ u.done = false) ∧
    ∀ r : BitVec 32, r ≠ 0 → exec (.shaInit r) s = .next (errorAnswer 0x10 2 s)

/-- R125: `SHA_UPDATE` stores its byte at `buf[sha_fill]` and no other, counts it, and compresses a full buffer; its three
errors in order. -/
def Obligations.ShaUpdateAbsorbsByte : Prop :=
  encode (.shaUpdate 0 0x61) = 0x1100000061 ∧
  ∀ (r : BitVec 24) (byte : Byte) (s : State), Memory.wf s.sha.buf →
    (r ≠ 0 → exec (.shaUpdate r byte) s = .next (errorAnswer 0x11 2 s)) ∧
    (r = 0 → s.sha.done = true → exec (.shaUpdate r byte) s = .next (errorAnswer 0x11 3 s)) ∧
    (r = 0 → s.sha.done = false → s.sha.len.toNat = 2 ^ 61 - 1 →
      exec (.shaUpdate r byte) s = .next (errorAnswer 0x11 5 s)) ∧
    (r = 0 → s.sha.done = false → s.sha.len.toNat ≠ 2 ^ 61 - 1 →
      ∃ u : ShaUnit, exec (.shaUpdate r byte) s = .next (okAnswer 0 { s with sha := u }) ∧
        (∀ a : BitVec 6, u.buf.read a = if a = s.sha.fill then byte else s.sha.buf.read a) ∧
        u.len.toNat = s.sha.len.toNat + 1 ∧ u.done = false ∧
        (s.sha.fill.toNat = 63 → u.fill = 0 ∧ u.h = compress s.sha.h u.buf) ∧
        (s.sha.fill.toNat ≠ 63 → u.fill.toNat = s.sha.fill.toNat + 1 ∧ u.h = s.sha.h))

/-- R126: `SHA_FINAL` pads the buffered bytes with `0x80`, zeros and the 64-bit big-endian bit length to one block (at most 55
bytes buffered) or two, compresses them, leaves the last block in the buffer, and keeps `sha_len`; its two errors in order. -/
def Obligations.ShaFinalPadsAndFinishes : Prop :=
  encode (.shaFinal 0) = 0x1200000000 ∧
  ∀ (r : BitVec 32) (s : State), Memory.wf s.sha.buf →
    (r ≠ 0 → exec (.shaFinal r) s = .next (errorAnswer 0x12 2 s)) ∧
    (r = 0 → s.sha.done = true → exec (.shaFinal r) s = .next (errorAnswer 0x12 3 s)) ∧
    (r = 0 → s.sha.done = false → ∃ u : ShaUnit,
      let f := s.sha.fill.toNat
      let bits : BitVec 64 := BitVec.ofNat 64 (8 * s.sha.len.toNat)
      let padded := (List.range f).map (fun j => s.sha.buf.read (BitVec.ofNat 6 j)) ++ [0x80]
        ++ List.replicate (paddingZeros f) 0x00 ++ bigEndian32 (bits.extractLsb' 32 32) ++ bigEndian32 (bits.extractLsb' 0 32)
      exec (.shaFinal r) s = .next (okAnswer 0 { s with sha := u }) ∧
      (f + 1 + paddingZeros f) % 64 = 56 ∧ (∀ k, (f + 1 + k) % 64 = 56 → paddingZeros f ≤ k) ∧
      padded.length = (if f ≤ 55 then 64 else 128) ∧
      u.h = (messageBlocks padded).foldl compressWords s.sha.h ∧
      (∀ a : BitVec 6, u.buf.read a = padded.getD (padded.length - 64 + a.toNat) 0) ∧
      u.fill = 0 ∧ u.done = true ∧ u.len = s.sha.len)

/-- R127: `SHA_READ` answers word `index` of the digest, which is its bytes `4 index` to `4 index + 3` and its seed word `index`,
and changes nothing; its two errors in order. -/
def Obligations.ShaReadAnswersWord : Prop :=
  encode (.shaRead 0 7) = 0x1300000007 ∧
  ∀ (r : BitVec 29) (index : BitVec 3) (s : State),
    (r ≠ 0 → exec (.shaRead r index) s = .next (errorAnswer 0x13 2 s)) ∧
    (r = 0 → s.sha.done = false → exec (.shaRead r index) s = .next (errorAnswer 0x13 3 s)) ∧
    (r = 0 → s.sha.done = true → exec (.shaRead r index) s = .next (okAnswer (s.sha.h.toList.getD index.toNat 0) s) ∧
      ((digestBytes s.sha.h).drop (4 * index.toNat)).take 4 = bigEndian32 (s.sha.h.toList.getD index.toNat 0) ∧
      (wordsOfBytes (digestBytes s.sha.h)).getD index.toNat 0 = s.sha.h.toList.getD index.toNat 0)

/-- `rotr32` of R8, which is a shift right and a shift left, is the rotation: bit `i` of the result is bit `i + n` modulo 32 of
the operand. -/
def Obligations.RotateMovesBits : Prop :=
  ∀ (v : Word) (n i : Nat), 0 < n → n < 32 → i < 32 → (rotr32 v n).getLsbD i = v.getLsbD ((i + n) % 32)

/-- The constants of R121 and R122 by their definition: `K[t]` is the first 32 bits of the fractional part of the cube root of the
`t`-th of the first 64 primes, `IV[i]` that of the square root of the `i`-th of the first eight. -/
def Obligations.ShaConstantsAreRoots : Prop :=
  let primes := (List.range 312).filter fun n => decide (Nat.Prime n)
  primes.length = 64 ∧ shaK.length = 64 ∧
  (∀ t < 64, ∃ whole < 7, let k := whole * 2 ^ 32 + (shaK.getD t 0).toNat
    k ^ 3 ≤ primes.getD t 0 * 2 ^ 96 ∧ primes.getD t 0 * 2 ^ 96 < (k + 1) ^ 3) ∧
  ∀ i < 8, ∃ whole < 5, let k := whole * 2 ^ 32 + (shaIV.toList.getD i 0).toNat
    k ^ 2 ≤ primes.getD i 0 * 2 ^ 64 ∧ primes.getD i 0 * 2 ^ 64 < (k + 1) ^ 2

/-- R120 to R123 written out, on Lean's own bit operations: the message schedule `W` of a block of sixteen words, the 64 rounds
on eight working variables with the printed `K` (four constants a line, the first most significant), and the final addition
give the compression of the block, both as words and as the 64 bytes of a buffer that hold them, most significant byte first. -/
def Obligations.CompressionWrittenOut : Prop :=
  let lines : List (BitVec 128) :=
    [0x428a2f98_71374491_b5c0fbcf_e9b5dba5,
     0x3956c25b_59f111f1_923f82a4_ab1c5ed5,
     0xd807aa98_12835b01_243185be_550c7dc3,
     0x72be5d74_80deb1fe_9bdc06a7_c19bf174,
     0xe49b69c1_efbe4786_0fc19dc6_240ca1cc,
     0x2de92c6f_4a7484aa_5cb0a9dc_76f988da,
     0x983e5152_a831c66d_b00327c8_bf597fc7,
     0xc6e00bf3_d5a79147_06ca6351_14292967,
     0x27b70a85_2e1b2138_4d2c6dfc_53380d13,
     0x650a7354_766a0abb_81c2c92e_92722c85,
     0xa2bfe8a1_a81a664b_c24b8b70_c76c51a3,
     0xd192e819_d6990624_f40e3585_106aa070,
     0x19a4c116_1e376c08_2748774c_34b0bcb5,
     0x391c0cb3_4ed8aa4a_5b9cca4f_682e6ff3,
     0x748f82ee_78a5636f_84c87814_8cc70208,
     0x90befffa_a4506ceb_bef9a3f7_c67178f2]
  let K := fun t : Nat => (lines.getD (t / 4) 0).extractLsb' (96 - 32 * (t % 4)) 32
  let rotr := fun (x : Word) (n : Nat) => x.rotateRight n
  ∀ (H : Vector Word 8) (block : Fin 16 → Word), ∃ W a b c d e f g h : Nat → Word,
    (∀ t : Fin 16, W t = block t) ∧
    (∀ t, 16 ≤ t → t < 64 → W t =
      (rotr (W (t - 2)) 17 ^^^ rotr (W (t - 2)) 19 ^^^ (W (t - 2) >>> 10)) + W (t - 7) +
      (rotr (W (t - 15)) 7 ^^^ rotr (W (t - 15)) 18 ^^^ (W (t - 15) >>> 3)) + W (t - 16)) ∧
    (a 0 = H[0] ∧ b 0 = H[1] ∧ c 0 = H[2] ∧ d 0 = H[3] ∧ e 0 = H[4] ∧ f 0 = H[5] ∧ g 0 = H[6] ∧ h 0 = H[7]) ∧
    (∀ t < 64,
      let T1 := h t + (rotr (e t) 6 ^^^ rotr (e t) 11 ^^^ rotr (e t) 25) + ((e t &&& f t) ^^^ (~~~e t &&& g t)) + K t + W t
      let T2 := (rotr (a t) 2 ^^^ rotr (a t) 13 ^^^ rotr (a t) 22) +
        ((a t &&& b t) ^^^ (a t &&& c t) ^^^ (b t &&& c t))
      a (t + 1) = T1 + T2 ∧ b (t + 1) = a t ∧ c (t + 1) = b t ∧ d (t + 1) = c t ∧
      e (t + 1) = d t + T1 ∧ f (t + 1) = e t ∧ g (t + 1) = f t ∧ h (t + 1) = g t) ∧
    let result : Vector Word 8 := #v[H[0] + a 64, H[1] + b 64, H[2] + c 64, H[3] + d 64,
      H[4] + e 64, H[5] + f 64, H[6] + g 64, H[7] + h 64]
    compressWords H (List.ofFn block) = result ∧
    ∀ buf : Memory,
      (∀ t : Fin 16, buf.read (BitVec.ofNat 6 (4 * t)) ++ buf.read (BitVec.ofNat 6 (4 * t + 1)) ++
        buf.read (BitVec.ofNat 6 (4 * t + 2)) ++ buf.read (BitVec.ofNat 6 (4 * t + 3)) = block t) →
      compress H buf = result

/-- R128: from any state, `SHA_INIT`, the bytes of a message and `SHA_FINAL` answer `OK` throughout and leave the SHA-256 digest
of the message, whose number of compressions is `floor((n + 8) / 64) + 1`; nothing else changes. Straight after reset the
same holds without `SHA_INIT`. -/
def Obligations.HashSequenceComputesSha256 : Prop :=
  ∀ (m : List Byte) (s : State), m.length ≤ 2 ^ 61 - 1 →
    (messageBlocks (paddedMessage m)).length = (m.length + 8) / 64 + 1 ∧
    (∃ u : ShaUnit, Host.Core.run core (m.length + 2) (issue (shaHash m) s) = .next
        { s with sha := u, responses := s.responses ++ List.replicate (m.length + 2) (responseWord 0 0) } ∧
      u.h = sha256 m ∧ u.done = true ∧ u.fill = 0 ∧ u.len.toNat = m.length) ∧
    (s.sha = .reset → ∃ u : ShaUnit,
      Host.Core.run core (m.length + 1) (issue (shaMsg m ++ [.shaFinal 0]) s) = .next
        { s with sha := u, responses := s.responses ++ List.replicate (m.length + 1) (responseWord 0 0) } ∧
      u.h = sha256 m ∧ u.done = true)

/-! The XS unit (R150 to R165). -/

/-- R151: `XS_INIT` loads the fallback constants and starts seeding, in every unit state. -/
def Obligations.XsInitLoadsFallbacks : Prop :=
  encode (.xsInit 0) = 0x2000000000 ∧
  ∀ s : State,
    exec (.xsInit 0) s = .next (okAnswer 0
      { s with xs := { s0 := xsFallback0, s1 := xsFallback1, st := .seeding, cnt := 0 } }) ∧
    ∀ r : BitVec 32, r ≠ 0 → exec (.xsInit r) s = .next (errorAnswer 0x20 2 s)

/-- R152: `XS_SEED` takes the first, the second and each later seed word; out of `SEEDING` it answers `ERR_SEQ`. -/
def Obligations.XsSeedTakesWord : Prop :=
  encode (.xsSeed 0xe3b0c442) = 0x21e3b0c442 ∧
  ∀ (w : Word) (s : State),
    (s.xs.st ≠ .seeding → exec (.xsSeed w) s = .next (errorAnswer 0x21 3 s)) ∧
    (s.xs.st = .seeding → s.xs.cnt = 0 → exec (.xsSeed w) s = .next (okAnswer 0
      { s with xs := { s.xs with s0 := if w = 0 then xsFallback0 else w, cnt := 1 } })) ∧
    (s.xs.st = .seeding → s.xs.cnt = 1 → exec (.xsSeed w) s = .next (okAnswer 0
      { s with xs := { s.xs with s1 := if w = 0 then xsFallback1 else w, cnt := 2 } })) ∧
    (s.xs.st = .seeding → s.xs.cnt = 2 → exec (.xsSeed w) s = .next (okAnswer 0
      { s with xs := { s.xs with
          s0 := s.xs.s1
          s1 := (s.xs.s0 ^^^ w) ^^^ ((s.xs.s0 ^^^ w) <<< 23) ^^^ ((s.xs.s0 ^^^ w) >>> 17) ^^^ s.xs.s1 ^^^ (s.xs.s1 >>> 26) } }))

/-- R153: `XS_START` performs ten draws and makes the generator ready; its two errors in order. -/
def Obligations.XsStartWarmsUp : Prop :=
  encode (.xsStart 0) = 0x2200000000 ∧
  ∀ (r : BitVec 32) (s : State),
    (r ≠ 0 → exec (.xsStart r) s = .next (errorAnswer 0x22 2 s)) ∧
    (r = 0 → s.xs.st ≠ .seeding → exec (.xsStart r) s = .next (errorAnswer 0x22 3 s)) ∧
    (r = 0 → s.xs.st = .seeding →
      let p := Nat.iterate (advance .flat) 10 (s.xs.s0, s.xs.s1)
      exec (.xsStart r) s = .next (okAnswer 0 { s with xs := { s.xs with s0 := p.1, s1 := p.2, st := .ready } }))

/-- R156 with the draw of R155 written out: `XS_NEXT` moves the generator one draw on and answers the sum of its new words; its
two errors in order. -/
def Obligations.XsNextDrawsOnce : Prop :=
  encode (.xsNext 0) = 0x2300000000 ∧
  ∀ (r : BitVec 32) (s : State),
    (r ≠ 0 → exec (.xsNext r) s = .next (errorAnswer 0x23 2 s)) ∧
    (r = 0 → s.xs.st ≠ .ready → exec (.xsNext r) s = .next (errorAnswer 0x23 3 s)) ∧
    (r = 0 → s.xs.st = .ready →
      let n := s.xs.s0 ^^^ (s.xs.s0 <<< 23) ^^^ (s.xs.s0 >>> 17) ^^^ s.xs.s1 ^^^ (s.xs.s1 >>> 26)
      exec (.xsNext r) s = .next (okAnswer (s.xs.s1 + n) { s with xs := { s.xs with s0 := s.xs.s1, s1 := n } }))

/-- R158: `XS_INT` consumes one draw and answers `min + floor(U * (max - min) / 2^32)` in two's complement, which lies between
`min` and `max`: below `max` if that is above `min`, and at `min` only for `U = 0` if `max` is below it. -/
def Obligations.XsIntScalesDraw : Prop :=
  encode (.xsInt 0 50) = 0x2400000032 ∧ encode (.xsInt (-5) 5) = 0x24fffb0005 ∧
  ∀ (min max : BitVec 16) (s : State),
    (s.xs.st ≠ .ready → exec (.xsInt min max) s = .next (errorAnswer 0x24 3 s)) ∧
    (s.xs.st = .ready →
      let n := s.xs.s0 ^^^ (s.xs.s0 <<< 23) ^^^ (s.xs.s0 >>> 17) ^^^ s.xs.s1 ^^^ (s.xs.s1 >>> 26)
      let u := s.xs.s1 + n
      ∃ res : Word, exec (.xsInt min max) s = .next (okAnswer res { s with xs := { s.xs with s0 := s.xs.s1, s1 := n } }) ∧
        res.toInt = min.toInt + Int.fdiv (u.toNat * (max.toInt - min.toInt)) (2 ^ 32) ∧
        (min.toInt < max.toInt → min.toInt ≤ res.toInt ∧ res.toInt < max.toInt) ∧
        (min.toInt = max.toInt → res.toInt = min.toInt) ∧
        (max.toInt < min.toInt → max.toInt ≤ res.toInt ∧ res.toInt ≤ min.toInt ∧ (res.toInt = min.toInt ↔ u = 0)))

/-- R159: `XS_PICK` consumes one draw and answers `floor(U * length / 2^32)`, an index below `length`; length 0 answers
`ERR_ARG` before the unit state is looked at. Up to 32767 it does what `XS_INT 0, length` does. -/
def Obligations.XsPickScalesDraw : Prop :=
  encode (.xsPick 10) = 0x250000000a ∧
  ∀ (length : Word) (s : State),
    (length = 0 → exec (.xsPick length) s = .next (errorAnswer 0x25 2 s)) ∧
    (length ≠ 0 → s.xs.st ≠ .ready → exec (.xsPick length) s = .next (errorAnswer 0x25 3 s)) ∧
    (length ≠ 0 → s.xs.st = .ready →
      let n := s.xs.s0 ^^^ (s.xs.s0 <<< 23) ^^^ (s.xs.s0 >>> 17) ^^^ s.xs.s1 ^^^ (s.xs.s1 >>> 26)
      let u := s.xs.s1 + n
      ∃ res : Word, exec (.xsPick length) s = .next (okAnswer res { s with xs := { s.xs with s0 := s.xs.s1, s1 := n } }) ∧
        res.toNat = u.toNat * length.toNat / 2 ^ 32 ∧ res.toNat < length.toNat ∧
        (length.toNat ≤ 32767 → exec (.xsInt 0 (length.setWidth 16)) s = exec (.xsPick length) s))

/-- R160: `XS_BOOL` consumes one draw and answers whether `U` is below the threshold, unsigned. The threshold the host makes of a
probability decides as the exact fraction does; a probability from 1 up has none. -/
def Obligations.XsBoolComparesDraw : Prop :=
  encode (.xsBool 0x80000000) = 0x2680000000 ∧
  (∀ (p : Rat) (t u : Word), thresholdOf p = some t → (u.toNat < t.toNat ↔ drawFraction u < p)) ∧
  (∀ p : Rat, 1 ≤ p → thresholdOf p = none) ∧
  ∀ (threshold : Word) (s : State),
    (s.xs.st ≠ .ready → exec (.xsBool threshold) s = .next (errorAnswer 0x26 3 s)) ∧
    (s.xs.st = .ready →
      let n := s.xs.s0 ^^^ (s.xs.s0 <<< 23) ^^^ (s.xs.s0 >>> 17) ^^^ s.xs.s1 ^^^ (s.xs.s1 >>> 26)
      let u := s.xs.s1 + n
      exec (.xsBool threshold) s = .next (okAnswer (if u.toNat < threshold.toNat then 1 else 0)
        { s with xs := { s.xs with s0 := s.xs.s1, s1 := n } }))

/-- For every probability, in range or not, the host's one command (`XS_BOOL`, or `XS_NEXT` where there is no threshold) consumes
one draw of a ready generator, and the host's answer is whether the exact fraction is below the probability; up to 0 the
threshold is 0 (R160, U7). That a probability below 1 without a threshold is treated as one from 1 up is the model's
deduction (log 14). -/
def Obligations.ProbabilityTakesOneDraw : Prop :=
  (∀ p : Rat, p ≤ 0 → thresholdOf p = some 0) ∧
  ∀ (p : Rat) (s : State), s.xs.st = .ready →
    let n := s.xs.s0 ^^^ (s.xs.s0 <<< 23) ^^^ (s.xs.s0 >>> 17) ^^^ s.xs.s1 ^^^ (s.xs.s1 >>> 26)
    let u := s.xs.s1 + n
    ∃ res : Word,
      exec (boolCommand p) s = .next (okAnswer res { s with xs := { s.xs with s0 := s.xs.s1, s1 := n } }) ∧
      (boolAnswer p res = true ↔ drawFraction u < p)

/-- `XS_INT` is the floor of the exact `range(min, max)`, which lies in `[min, max)` for all `min < max` (R158, R163). -/
def Obligations.IntIsFloorOfRange : Prop :=
  (∀ (min max : BitVec 16) (u : Word),
    (scaleInt min.toInt max.toInt u).toInt = (rangeValue min.toInt max.toInt u).floor) ∧
  ∀ (min max : Rat) (u : Word), min < max → min ≤ rangeValue min max u ∧ rangeValue min max u < max

/-- R164: under both readings the update is a bijection on the states, `(0, 0)` is a fixed point, and no other state maps to
it. -/
def Obligations.UpdateIsBijective : Prop :=
  ∀ mix : XsMix, Function.Bijective (advance mix) ∧ advance mix (0, 0) = (0, 0) ∧ drawOutput xsOut (0, 0) (0, 0) = 0 ∧
    ∀ p, p ≠ (0, 0) → advance mix p ≠ (0, 0)

/-- R267: a command leads from a state that is not all-zero to an all-zero one only if it is `XS_SEED` in its folding case with
`s1 = 0` and `word = s0`; from that state it does. -/
def Obligations.AllZeroOnlyByFolding : Prop :=
  (∀ (i : Instr) (s t : State), exec i s = .next t → (s.xs.s0, s.xs.s1) ≠ (0, 0) → (t.xs.s0, t.xs.s1) = (0, 0) →
    s.xs.st = .seeding ∧ s.xs.cnt = 2 ∧ s.xs.s1 = 0 ∧ i = .xsSeed s.xs.s0) ∧
  ∀ s : State, s.xs.st = .seeding → s.xs.cnt = 2 → s.xs.s1 = 0 →
    exec (.xsSeed s.xs.s0) s = .next (okAnswer 0 { s with xs := { s.xs with s0 := 0 } })

/-- U2, R267: an all-zero ready generator stays all-zero; its draws answer 0, `min`, 0, and whether the threshold is positive. -/
def Obligations.AllZeroGeneratorStuck : Prop :=
  ∀ s : State, s.xs.st = .ready → s.xs.s0 = 0 → s.xs.s1 = 0 →
    exec (.xsNext 0) s = .next (okAnswer 0 s) ∧
    (∀ min max : BitVec 16, exec (.xsInt min max) s = .next (okAnswer (min.signExtend 32) s)) ∧
    (∀ length : Word, length ≠ 0 → exec (.xsPick length) s = .next (okAnswer 0 s)) ∧
    ∀ threshold : Word, exec (.xsBool threshold) s = .next (okAnswer (if threshold = 0 then 0 else 1) s)

/-- R165: under the reading the machine uses, 168 draws return every state to itself, and no smaller positive number does so
for all states. -/
def Obligations.GeneratorPeriodIs168 : Prop :=
  (∀ p : Word × Word, Nat.iterate (advance xsMix) 168 p = p) ∧
  ∀ n, 0 < n → n < 168 → ∃ p : Word × Word, Nat.iterate (advance xsMix) n p ≠ p

/-- R161: a ready generator that serves any sequence of drawing commands performs exactly one draw for each, in order: the
`k`-th answer is made from the `k`-th draw, whichever commands ask. -/
def Obligations.OneDrawPerCommand : Prop :=
  ∀ (program : List Instr) (s : State), (∀ i ∈ program, isDraw i = true) → s.xs.st = .ready →
    let drawn := fun n => Nat.iterate (advance .flat) n (s.xs.s0, s.xs.s1)
    runProgram program s = .next
      { s with
        xs := { s.xs with s0 := (drawn program.length).1, s1 := (drawn program.length).2 }
        responses := s.responses ++
          program.mapIdx fun k i => responseWord 0 (drawResult i ((drawn (k + 1)).1 + (drawn (k + 1)).2)) }

/-- A digest's bytes make its eight words as seed words, unchanged, and a trailing partial chunk is dropped (R69, R74, R162). -/
def Obligations.SeedWordsOfDigest : Prop :=
  (∀ h : Vector Word 8, wordsOfBytes (digestBytes h) = h.toList ∧ (digestBytes h).length = 32 ∧
    xsSeedB (digestBytes h) = xsSeedShaSeeds h) ∧
  ∀ d tail : List Byte, d.length % 4 = 0 → tail.length < 4 → wordsOfBytes (d ++ tail) = wordsOfBytes d

/-! The CRC unit (R180 to R183). -/

/-- R181: `CRC_INIT` starts from all ones at any time. -/
def Obligations.CrcInitStarts : Prop :=
  encode (.crcInit 0) = 0x3000000000 ∧
  ∀ s : State, exec (.crcInit 0) s = .next (okAnswer 0 { s with crc := 0xFFFFFFFF }) ∧
    ∀ r : BitVec 32, r ≠ 0 → exec (.crcInit r) s = .next (errorAnswer 0x30 2 s)

/-- R182 with the eight shifts of R180 as the linear-feedback form they are: `CRC_UPDATE` includes its byte and changes only
`crc`. -/
def Obligations.CrcUpdateIncludesByte : Prop :=
  encode (.crcUpdate 0 0x49) = 0x3100000049 ∧
  ∀ (byte : Byte) (s : State),
    (∃ c : Fin 9 → Word, c 0 = s.crc ^^^ byte.setWidth 32 ∧
      (∀ k : Fin 8, c k.succ = if (c k.castSucc).getLsbD 0 then (c k.castSucc >>> 1) ^^^ 0xEDB88320 else c k.castSucc >>> 1) ∧
      exec (.crcUpdate 0 byte) s = .next (okAnswer 0 { s with crc := c 8 })) ∧
    ∀ r : BitVec 24, r ≠ 0 → exec (.crcUpdate r byte) s = .next (errorAnswer 0x31 2 s)

/-- R183: `CRC_READ` answers the inverted remainder and changes nothing. -/
def Obligations.CrcReadAnswersInverted : Prop :=
  encode (.crcRead 0) = 0x3200000000 ∧
  ∀ s : State, exec (.crcRead 0) s = .next (okAnswer (s.crc ^^^ 0xFFFFFFFF) s) ∧
    ∀ r : BitVec 32, r ≠ 0 → exec (.crcRead r) s = .next (errorAnswer 0x32 2 s)

/-- The table form of the CRC step gives the same value as the bit-serial one for every remainder and byte (R180). -/
def Obligations.CrcTableFormAgrees : Prop :=
  ∀ (c : Word) (byte : Byte),
    crcStep c byte = (c >>> 8) ^^^ crcStep (((c ^^^ byte.setWidth 32).extractLsb' 0 8).setWidth 32) 0x00

/-! The AD unit (R190 to R193, R25). -/

/-- R191: `AD_INIT` starts from `a = 1`, `b = 0`; its two errors in order. -/
def Obligations.AdInitStarts : Prop :=
  encode (.adInit 0) = 0x4000000000 ∧
  ∀ (r : BitVec 32) (s : State),
    (r ≠ 0 → exec (.adInit r) s = .next (errorAnswer 0x40 2 s)) ∧
    (r = 0 → s.zs.isOpen = true → exec (.adInit r) s = .next (errorAnswer 0x40 4 s)) ∧
    (r = 0 → s.zs.isOpen = false → exec (.adInit r) s = .next (okAnswer 0 { s with ad := { a := 1, b := 0 } }))

/-- R192 with the step of R190 as numbers: `AD_UPDATE` includes its byte, `b` taking the new `a`; its two errors in order. -/
def Obligations.AdUpdateIncludesByte : Prop :=
  encode (.adUpdate 0 0x61) = 0x4100000061 ∧
  ∀ (r : BitVec 24) (byte : Byte) (s : State),
    (r ≠ 0 → exec (.adUpdate r byte) s = .next (errorAnswer 0x41 2 s)) ∧
    (r = 0 → s.zs.isOpen = true → exec (.adUpdate r byte) s = .next (errorAnswer 0x41 4 s)) ∧
    (r = 0 → s.zs.isOpen = false → ∃ u : AdUnit,
      exec (.adUpdate r byte) s = .next (okAnswer 0 { s with ad := u }) ∧
      u.a.toNat = (s.ad.a.toNat + byte.toNat) % 65521 ∧ u.b.toNat = (s.ad.b.toNat + u.a.toNat) % 65521)

/-- R193: `AD_READ` answers `b * 65536 + a`, also while a stream is open, and changes nothing. -/
def Obligations.AdReadAnswersSums : Prop :=
  encode (.adRead 0) = 0x4200000000 ∧
  ∀ s : State,
    (∃ res : Word, exec (.adRead 0) s = .next (okAnswer res s) ∧ res.toNat = s.ad.b.toNat * 65536 + s.ad.a.toNat) ∧
    ∀ r : BitVec 32, r ≠ 0 → exec (.adRead r) s = .next (errorAnswer 0x42 2 s)

/-- R25: after `AD_INIT` and any bytes, `a` is the running sum of the bytes plus one and `b` the sum of the successive values of
that running sum, both modulo 65521. -/
def Obligations.AdlerSumsInClosedForm : Prop :=
  ∀ (bytes : List Byte) (s : State), s.zs.isOpen = false →
    ∃ u : AdUnit, runProgram (.adInit 0 :: adMsg bytes) s = .next
        { s with ad := u, responses := s.responses ++ List.replicate (bytes.length + 1) (responseWord 0 0) } ∧
      u.a.toNat = (1 + (bytes.map BitVec.toNat).sum) % 65521 ∧
      u.b.toNat = ((List.range bytes.length).map fun k => 1 + ((bytes.take (k + 1)).map BitVec.toNat).sum).sum % 65521

/-! The ZS unit (R200 to R206). -/

/-- R202: `ZS_BEGIN` opens a stream, starts its Adler-32 in the AD unit and emits the zlib header and the first block header,
which are seven bytes; `zs_blkrem` is then `min(zs_remain, 65535)` (R30 item 4). -/
def Obligations.ZsBeginOpensStream : Prop :=
  encode (.zsBegin 3) = 0x5000000003 ∧
  ∀ (length : Word) (s : State),
    (s.zs.isOpen = true → exec (.zsBegin length) s = .next (errorAnswer 0x50 3 s)) ∧
    (s.zs.isOpen = false → ∃ len : BitVec 16, len.toNat = min length.toNat 65535 ∧
      exec (.zsBegin length) s = .next (okAnswer 0 { s with
        zs := { isOpen := true, remain := length, blkrem := len }
        ad := { a := 1, b := 0 }
        out := s.out ++ [0x78, 0x01, if length.toNat ≤ 65535 then 0x01 else 0x00, len.extractLsb' 0 8, len.extractLsb' 8 8,
          (len ^^^ 0xFFFF).extractLsb' 0 8, (len ^^^ 0xFFFF).extractLsb' 8 8] }))

/-- R203: `ZS_DATA` passes its byte through, counts it and adds it to the checksum; the byte that ends a block that is not the
last is followed by the next block's header. Its three errors in order. -/
def Obligations.ZsDataPassesByte : Prop :=
  encode (.zsData 0 0x61) = 0x5100000061 ∧
  ∀ (r : BitVec 24) (byte : Byte) (s : State),
    (r ≠ 0 → exec (.zsData r byte) s = .next (errorAnswer 0x51 2 s)) ∧
    (r = 0 → s.zs.isOpen = false → exec (.zsData r byte) s = .next (errorAnswer 0x51 3 s)) ∧
    (r = 0 → s.zs.isOpen = true → s.zs.remain = 0 → exec (.zsData r byte) s = .next (errorAnswer 0x51 5 s)) ∧
    (r = 0 → s.zs.isOpen = true → s.zs.remain ≠ 0 → s.zs.blkrem ≠ 0 → ∃ (u : AdUnit) (z : ZsUnit) (header : List Byte),
      exec (.zsData r byte) s = .next (okAnswer 0 { s with zs := z, ad := u, out := s.out ++ [byte] ++ header }) ∧
      u.a.toNat = (s.ad.a.toNat + byte.toNat) % 65521 ∧ u.b.toNat = (s.ad.b.toNat + u.a.toNat) % 65521 ∧
      z.isOpen = true ∧ z.remain.toNat = s.zs.remain.toNat - 1 ∧
      (¬(s.zs.blkrem.toNat = 1 ∧ 1 < s.zs.remain.toNat) → z.blkrem.toNat = s.zs.blkrem.toNat - 1 ∧ header = []) ∧
      (s.zs.blkrem.toNat = 1 ∧ 1 < s.zs.remain.toNat → z.blkrem.toNat = min z.remain.toNat 65535 ∧
        header = [if z.remain.toNat ≤ 65535 then 0x01 else 0x00, z.blkrem.extractLsb' 0 8, z.blkrem.extractLsb' 8 8,
          (z.blkrem ^^^ 0xFFFF).extractLsb' 0 8, (z.blkrem ^^^ 0xFFFF).extractLsb' 8 8]))

/-- R204: `ZS_END` emits the big-endian Adler-32 and closes the stream, keeping `a` and `b`; its three errors in order. -/
def Obligations.ZsEndClosesStream : Prop :=
  encode (.zsEnd 0) = 0x5200000000 ∧
  ∀ (r : BitVec 32) (s : State),
    (r ≠ 0 → exec (.zsEnd r) s = .next (errorAnswer 0x52 2 s)) ∧
    (r = 0 → s.zs.isOpen = false → exec (.zsEnd r) s = .next (errorAnswer 0x52 3 s)) ∧
    (r = 0 → s.zs.isOpen = true → s.zs.remain ≠ 0 → exec (.zsEnd r) s = .next (errorAnswer 0x52 5 s)) ∧
    (r = 0 → s.zs.isOpen = true → s.zs.remain = 0 → exec (.zsEnd r) s = .next (okAnswer 0 { s with
      zs := { s.zs with isOpen := false }
      out := s.out ++ [s.ad.b.extractLsb' 8 8, s.ad.b.extractLsb' 0 8, s.ad.a.extractLsb' 8 8, s.ad.a.extractLsb' 0 8] }))

/-- R205, R200: with no stream open, any program whose ZS commands are `ZS_BEGIN n`, the `n` payload bytes and `ZS_END`, with
other units' commands interleaved freely and no `SYS_RESET`, answers `(OK, 0)` to each of its ZS commands and emits exactly
the zlib stream of the payload, which has `2 + 5 m + n + 4` bytes; without interleaving every command answers `OK` and only
the ZS and AD units change. -/
def Obligations.ZlibStreamEmitted : Prop :=
  ∀ (p : List Byte) (s : State), p.length < 2 ^ 32 → s.zs.isOpen = false →
    (zlibStream p).length = 2 + 5 * max 1 ((p.length + 65534) / 65535) + p.length + 4 ∧
    (∀ program : List Instr, program.filter isZs = zsStream p → (∀ i ∈ program, isReset i = false) →
      ∃ (t : State) (answers : List ResponseWord), Host.Core.run core program.length (issue program s) = .next t ∧
        t.out = s.out ++ zlibStream p ∧ t.zs.isOpen = false ∧
        t.responses = s.responses ++ answers ∧ answers.length = program.length ∧
        ∀ (k : Nat) (i : Instr), program[k]? = some i → isZs i = true → answers[k]? = some (responseWord 0 0)) ∧
    Host.Core.run core (p.length + 2) (issue (zsStream p) s) = .next
      { s with
        zs := { isOpen := false, remain := 0, blkrem := 0 }
        ad := adlerSums p
        out := s.out ++ zlibStream p
        responses := s.responses ++ List.replicate (p.length + 2) (responseWord 0 0) }

/-- R264, R206: while a stream is open, no command of another unit but `SYS_RESET` touches the stream, its checksum or `OUT`. -/
def Obligations.OpenStreamUndisturbed : Prop :=
  ∀ (i : Instr) (s t : State), s.zs.isOpen = true → isZs i = false → isReset i = false → exec i s = .next t →
    t.zs = s.zs ∧ t.ad = s.ad ∧ t.out = s.out

/-! The whole machine. -/

/-- R20: but for `SYS_RESET`, a unit's state is changed only by that unit's commands, and the AD unit's also by the ZS unit;
only the ZS unit emits; no command touches the command port. -/
def Obligations.UnitsChangedByOwnCommands : Prop :=
  ∀ (i : Instr) (s t : State), isReset i = false → exec i s = .next t →
    (unitOf i ≠ 1 → t.sha = s.sha) ∧ (unitOf i ≠ 2 → t.xs = s.xs) ∧ (unitOf i ≠ 3 → t.crc = s.crc) ∧
    (unitOf i ≠ 4 → unitOf i ≠ 5 → t.ad = s.ad) ∧ (unitOf i ≠ 5 → t.zs = s.zs ∧ t.out = s.out) ∧
    t.port = s.port ∧ t.cutCount = s.cutCount

/-- No step, whatever the host event, withdraws or changes a byte already emitted (R63) or a response already given; that a
reset leaves the responses is the model's deduction (log 5). -/
def Obligations.OutIsAppendOnly : Prop :=
  ∀ s t : State, step s = .next t →
    (∃ bytes, t.out = s.out ++ bytes) ∧ ∃ words, t.responses = s.responses ++ words ∧ words.length ≤ 1

/-- R3, R63: what a command does to the units, answers and emits is a function of the units' state and the command alone; it
reads nothing of the ports. -/
def Obligations.PortsAreNeverRead : Prop :=
  ∀ (i : Instr) (s s' t : State),
    s'.sha = s.sha → s'.xs = s.xs → s'.crc = s.crc → s'.ad = s.ad → s'.zs = s.zs → s'.err = s.err → exec i s = .next t →
    ∃ t' r bytes, exec i s' = .next t' ∧
      t'.sha = t.sha ∧ t'.xs = t.xs ∧ t'.crc = t.crc ∧ t'.ad = t.ad ∧ t'.zs = t.zs ∧ t'.err = t.err ∧
      t.responses = s.responses ++ [r] ∧ t'.responses = s'.responses ++ [r] ∧
      t.out = s.out ++ bytes ∧ t'.out = s'.out ++ bytes

/-- R80: a list of commands presented on the port is executed strictly in order, each to completion before the next. -/
def Obligations.CommandsRunInOrder : Prop :=
  ∀ (program : List Instr) (s : State),
    Host.Core.run core program.length (issue program s) = runProgram program s ∧
    ∀ (first second : List Instr) (t : State), program = first ++ second → runProgram first s = .next t →
      runProgram program s = runProgram second t

/-- R260: a hard reset resets every unit whatever the state was and executes nothing presented with it; of a command it cuts
short, either all bytes and the response are there, or some of the first bytes and no response. That a response excludes
missing bytes is the model's reading (log 8); that responses given before and waiting host events stay is its choice (logs 5
and 13). -/
def Obligations.HardResetResetsUnits : Prop :=
  ∀ (s : State) (cut : Option CommandWord) (during : List CommandWord) (rest : List HostEvent),
    s.port = .hardReset cut during :: rest →
    ∃ t, step s = .next t ∧
      t.sha = State.reset.sha ∧ t.xs = State.reset.xs ∧ t.crc = State.reset.crc ∧ t.ad = State.reset.ad ∧
      t.zs = State.reset.zs ∧ t.err = State.reset.err ∧ t.port = rest ∧
      (cut = none → t.out = s.out ∧ t.responses = s.responses) ∧
      ∀ cw, cut = some cw → ∃ u r bytes, runWord cw { s with port := rest } = .next u ∧
        u.out = s.out ++ bytes ∧ u.responses = s.responses ++ [r] ∧
        (t.out = s.out ++ bytes ∧ t.responses = s.responses ++ [r] ∨
         (∃ k, t.out = s.out ++ bytes.take k) ∧ t.responses = s.responses)

/-- R30: the state after reset meets the invariants. -/
def Obligations.ResetMeetsInvariant : Prop := State.reset.Inv

/-- R30: every step keeps the invariants, from every state that meets them. -/
def Obligations.StepKeepsInvariant : Prop := ∀ s t : State, s.Inv → step s = .next t → t.Inv

/-- R230, R96, R240: a step always leaves a next state, so nothing stops the block, and with no host event pending it keeps
its state. -/
def Obligations.StepAlwaysCompletes : Prop := ∀ s : State, ∃ t, step s = .next t ∧ (s.port = [] → t = s)
end

