-- ==== Sys2Proof/Laws/Decode.lean ====
section
/-! SUPPORT. The fields of a command word and of its operand read back from their concatenation, and the other way (R90, R91). -/

namespace Sys2Proof

/-- The low part of a concatenation. -/
theorem extractLsb'_append_low {m n : Nat} (x : BitVec m) (y : BitVec n) : (x ++ y).extractLsb' 0 n = y := by
  apply BitVec.eq_of_getLsbD_eq
  intro i h
  simp [BitVec.getLsbD_append, h]

/-- The high part of a concatenation. -/
theorem extractLsb'_append_high {m n : Nat} (x : BitVec m) (y : BitVec n) : (x ++ y).extractLsb' n m = x := by
  apply BitVec.eq_of_getLsbD_eq
  intro i h
  simp [BitVec.getLsbD_append, h]

/-- A bit vector is its two parts. -/
theorem append_extractLsb' {m n : Nat} (v : BitVec (m + n)) : v.extractLsb' n m ++ v.extractLsb' 0 n = v := by
  apply BitVec.eq_of_getLsbD_eq
  intro i h
  rw [BitVec.getLsbD_append]
  by_cases hi : i < n
  · simp [hi]
  · have h1 : i - n < m := by omega
    have h2 : n + (i - n) = i := by omega
    simp [hi, h1, h2]

@[simp] theorem opField_commandWord (op : BitVec 8) (arg : Word) : opField (commandWord op arg) = op :=
  extractLsb'_append_high op arg

@[simp] theorem argField_commandWord (op : BitVec 8) (arg : Word) : argField (commandWord op arg) = arg :=
  extractLsb'_append_low op arg

/-- A command word is its two fields (R90). -/
@[simp] theorem commandWord_fields (cw : CommandWord) : commandWord (opField cw) (argField cw) = cw :=
  append_extractLsb' (m := 8) (n := 32) cw

@[simp] theorem reservedB_argB (r : BitVec 24) (byte : Byte) : reservedB (argB r byte) = r := extractLsb'_append_high r byte
@[simp] theorem byteB_argB (r : BitVec 24) (byte : Byte) : byteB (argB r byte) = byte := extractLsb'_append_low r byte
@[simp] theorem argB_fields (arg : Word) : argB (reservedB arg) (byteB arg) = arg :=
  append_extractLsb' (m := 24) (n := 8) arg

@[simp] theorem minP_argP (min max : BitVec 16) : minP (argP min max) = min := extractLsb'_append_high min max
@[simp] theorem maxP_argP (min max : BitVec 16) : maxP (argP min max) = max := extractLsb'_append_low min max
@[simp] theorem argP_fields (arg : Word) : argP (minP arg) (maxP arg) = arg :=
  append_extractLsb' (m := 16) (n := 16) arg

@[simp] theorem reservedI3_argI3 (r : BitVec 29) (i : BitVec 3) : reservedI3 (argI3 r i) = r := extractLsb'_append_high r i
@[simp] theorem indexI3_argI3 (r : BitVec 29) (i : BitVec 3) : indexI3 (argI3 r i) = i := extractLsb'_append_low r i
@[simp] theorem argI3_fields (arg : Word) : argI3 (reservedI3 arg) (indexI3 arg) = arg :=
  append_extractLsb' (m := 29) (n := 3) arg

@[simp] theorem reservedI4_argI4 (r : BitVec 28) (i : BitVec 4) : reservedI4 (argI4 r i) = r := extractLsb'_append_high r i
@[simp] theorem indexI4_argI4 (r : BitVec 28) (i : BitVec 4) : indexI4 (argI4 r i) = i := extractLsb'_append_low r i
@[simp] theorem argI4_fields (arg : Word) : argI4 (reservedI4 arg) (indexI4 arg) = arg :=
  append_extractLsb' (m := 28) (n := 4) arg

@[simp] theorem opField_encode (i : Instr) : opField (encode i) = i.opcode := opField_commandWord _ _

@[simp] theorem argField_encode (i : Instr) : argField (encode i) = i.arg := argField_commandWord _ _

/-- Decoding looks at the two fields only. -/
theorem decode_commandWord (op : BitVec 8) (arg : Word) : decode (commandWord op arg) = decodeFields op arg := by
  simp [decode]

end Sys2Proof
end

