-- ==== Sys2Proof/Laws/Memory.lean ====
section
/-! SUPPORT. The laws of the SHA block buffer: reading after writing, and the canonical form kept by every operation. -/

namespace Sys2Proof.Machine

theorem lookupCell_storeCell (m : List Host.Cell) (a k : Nat) (v : Byte)
    (sorted : m.Pairwise (fun x y => x.1 < y.1)) :
    lookupCell (storeCell m a v) k = if k = a then v else lookupCell m k := by
  have absent : ∀ (l : List Host.Cell) (n : Nat), (∀ c ∈ l, n < c.1) → lookupCell l n = unlistedByte := by
    intro l n
    induction l with
    | nil => intro _; rfl
    | cons c l ih =>
      intro h
      have := h c (by simp)
      simp only [lookupCell]
      rw [if_neg (by omega), ih fun d hd => h d (by simp [hd])]
  induction m with
  | nil => by_cases hv : v = unlistedByte <;> by_cases hk : a = k <;> simp_all [storeCell, lookupCell, eq_comm]
  | cons c rest ih =>
    obtain ⟨j, w⟩ := c
    rw [List.pairwise_cons] at sorted
    have ih := ih sorted.2
    have above := sorted.1
    simp only [storeCell]
    split
    · have gone : k = a → lookupCell ((j, w) :: rest) k = unlistedByte := by
        rintro rfl
        refine absent _ _ fun d hd => ?_
        rcases List.mem_cons.1 hd with rfl | hd
        · assumption
        · exact lt_trans (by assumption) (above d hd)
      split
      · rename_i hv
        by_cases hk : k = a
        · rw [if_pos hk, gone hk, hv]
        · rw [if_neg hk]
      · simp only [lookupCell, eq_comm (a := a)]
    · split
      · rename_i haj
        subst haj
        split
        · rename_i hv
          by_cases hk : k = a
          · subst hk; rw [if_pos rfl, absent rest k above, hv]
          · rw [if_neg hk, lookupCell, if_neg (Ne.symm hk)]
        · by_cases hk : k = a
          · subst hk; simp [lookupCell]
          · simp [lookupCell, hk, Ne.symm hk]
      · rename_i hlt hne
        simp only [lookupCell, ih]
        by_cases hk : k = a
        · subst hk; simp [Ne.symm hne]
        · simp [hk]

/-- What `Memory.write` does, once: the written address holds the byte, every other address what it held. -/
theorem Memory.read_write (m : Memory) (h : Memory.wf m) (a k : BitVec 6) (v : Byte) :
    (m.write a v).read k = if k = a then v else m.read k := by
  simp only [Memory.read, Memory.write, lookupCell_storeCell m _ _ _ h.1]
  by_cases hk : k = a
  · simp [hk]
  · rw [if_neg hk, if_neg (fun e => hk (BitVec.eq_of_toNat_eq e))]

theorem mem_storeCell {m : List Host.Cell} {a : Nat} {v : Byte} {c : Host.Cell} (h : c ∈ storeCell m a v) :
    c ∈ m ∨ c = (a, v) ∧ v ≠ unlistedByte := by
  induction m with
  | nil => simp only [storeCell] at h; split at h <;> simp_all
  | cons d rest ih =>
    obtain ⟨j, w⟩ := d
    simp only [storeCell] at h
    split at h
    · split at h
      · exact .inl h
      · rcases List.mem_cons.1 h with rfl | h
        · exact .inr ⟨rfl, by assumption⟩
        · exact .inl h
    · split at h
      · split at h
        · exact .inl (List.mem_cons_of_mem _ h)
        · rcases List.mem_cons.1 h with rfl | h
          · exact .inr ⟨rfl, by assumption⟩
          · exact .inl (List.mem_cons_of_mem _ h)
      · rcases List.mem_cons.1 h with rfl | h
        · exact .inl (List.mem_cons_self ..)
        · rcases ih h with h | h
          · exact .inl (List.mem_cons_of_mem _ h)
          · exact .inr h

theorem pairwise_storeCell {m : List Host.Cell} (a : Nat) (v : Byte) (sorted : m.Pairwise (fun x y => x.1 < y.1)) :
    (storeCell m a v).Pairwise (fun x y => x.1 < y.1) := by
  induction m with
  | nil => simp only [storeCell]; split <;> simp
  | cons d rest ih =>
    obtain ⟨j, w⟩ := d
    have hs := List.pairwise_cons.1 sorted
    simp only [storeCell]
    split
    · split
      · exact sorted
      · refine List.pairwise_cons.2 ⟨fun c hc => ?_, sorted⟩
        rcases List.mem_cons.1 hc with rfl | hc
        · assumption
        · exact lt_trans (by assumption) (hs.1 c hc)
    · split
      · rename_i haj
        split
        · exact hs.2
        · exact List.pairwise_cons.2 ⟨fun c hc => haj ▸ hs.1 c hc, hs.2⟩
      · refine List.pairwise_cons.2 ⟨fun c hc => ?_, ih hs.2⟩
        rcases mem_storeCell hc with hc | ⟨rfl, -⟩
        · exact hs.1 c hc
        · show j < a
          omega

/-- `Memory.write` keeps the canonical form. -/
theorem Memory.wf_write {m : Memory} (h : Memory.wf m) (a : BitVec 6) (v : Byte) : Memory.wf (m.write a v) := by
  refine ⟨pairwise_storeCell _ _ h.1, fun c hc => ?_⟩
  rcases mem_storeCell hc with hc | ⟨rfl, hv⟩
  · exact h.2 c hc
  · exact ⟨a.isLt, hv⟩

/-- A fold of writes keeps the canonical form. -/
theorem Memory.wf_foldl {m : Memory} (h : Memory.wf m) (l : List Nat) (a : Nat → BitVec 6) (v : Nat → Byte) :
    Memory.wf (l.foldl (fun m i => m.write (a i) (v i)) m) := by
  induction l generalizing m with
  | nil => exact h
  | cons i l ih => exact ih (Memory.wf_write h _ _)

/-- `MemWrite` keeps the canonical form. -/
theorem Memory.wf_memWrite {m : Memory} (h : Memory.wf m) (a : BitVec 6) (n : Nat) (v : BitVec (8 * n)) :
    Memory.wf (m.memWrite a n v) := Memory.wf_foldl h _ _ _

/-- `Memory.zero` keeps the canonical form. -/
theorem Memory.wf_zero {m : Memory} (h : Memory.wf m) (first last : Nat) : Memory.wf (m.zero first last) :=
  Memory.wf_foldl h _ _ _

/-- The reset buffer reads 0 everywhere (R55). -/
theorem Memory.read_empty (a : BitVec 6) : Memory.read [] a = 0 := rfl

/-- A write of one byte (`MemWrite(a, 1, v)`) is `Memory.write`. -/
theorem Memory.memWrite_one (m : Memory) (a : BitVec 6) (v : Byte) : m.memWrite a 1 v = m.write a v := by
  simp [Memory.memWrite, List.range_succ]

/-- What `Memory.zero` does, once: the addresses from `first` to `last - 1` hold 0, every other what it held. -/
theorem Memory.read_zero {m : Memory} (h : Memory.wf m) (first last : Nat) (bound : last ≤ 64) (k : BitVec 6) :
    (m.zero first last).read k = if first ≤ k.toNat ∧ k.toNat < last then 0 else m.read k := by
  obtain ⟨n, hn⟩ : ∃ n, last - first = n := ⟨_, rfl⟩
  simp only [Memory.zero, hn]
  induction n generalizing m first with
  | zero => simp only [List.range'_zero, List.foldl_nil]; rw [if_neg (by omega)]
  | succ n ih =>
    simp only [List.range'_succ, List.foldl_cons]
    rw [ih (Memory.wf_write h _ _) (first + 1) (by omega), Memory.read_write m h]
    have hk : k = BitVec.ofNat 6 first ↔ k.toNat = first := by
      rw [← BitVec.toNat_inj, BitVec.toNat_ofNat, Nat.mod_eq_of_lt (by omega)]
    simp only [hk]
    split <;> split <;> simp_all <;> omega

end Sys2Proof.Machine
end

