-- ==== Sys2Proof/Laws/State.lean ====
section
/-! SUPPORT. One lemma per field for each shared update of the state, true by `rfl`, so that no proof unfolds an update. -/

namespace Sys2Proof.Machine

@[simp] theorem respond_sha (st : BitVec 4) (res : Word) (s : State) : (respond st res s).sha = s.sha := rfl
@[simp] theorem respond_xs (st : BitVec 4) (res : Word) (s : State) : (respond st res s).xs = s.xs := rfl
@[simp] theorem respond_crc (st : BitVec 4) (res : Word) (s : State) : (respond st res s).crc = s.crc := rfl
@[simp] theorem respond_ad (st : BitVec 4) (res : Word) (s : State) : (respond st res s).ad = s.ad := rfl
@[simp] theorem respond_zs (st : BitVec 4) (res : Word) (s : State) : (respond st res s).zs = s.zs := rfl
@[simp] theorem respond_err (st : BitVec 4) (res : Word) (s : State) : (respond st res s).err = s.err := rfl
@[simp] theorem respond_port (st : BitVec 4) (res : Word) (s : State) : (respond st res s).port = s.port := rfl
@[simp] theorem respond_responses (st : BitVec 4) (res : Word) (s : State) : (respond st res s).responses = s.responses ++ [responseWord st res] := rfl
@[simp] theorem respond_out (st : BitVec 4) (res : Word) (s : State) : (respond st res s).out = s.out := rfl
@[simp] theorem respond_cutCount (st : BitVec 4) (res : Word) (s : State) : (respond st res s).cutCount = s.cutCount := rfl

@[simp] theorem emit_sha (bytes : List Byte) (s : State) : (emit bytes s).sha = s.sha := rfl
@[simp] theorem emit_xs (bytes : List Byte) (s : State) : (emit bytes s).xs = s.xs := rfl
@[simp] theorem emit_crc (bytes : List Byte) (s : State) : (emit bytes s).crc = s.crc := rfl
@[simp] theorem emit_ad (bytes : List Byte) (s : State) : (emit bytes s).ad = s.ad := rfl
@[simp] theorem emit_zs (bytes : List Byte) (s : State) : (emit bytes s).zs = s.zs := rfl
@[simp] theorem emit_err (bytes : List Byte) (s : State) : (emit bytes s).err = s.err := rfl
@[simp] theorem emit_port (bytes : List Byte) (s : State) : (emit bytes s).port = s.port := rfl
@[simp] theorem emit_responses (bytes : List Byte) (s : State) : (emit bytes s).responses = s.responses := rfl
@[simp] theorem emit_out (bytes : List Byte) (s : State) : (emit bytes s).out = s.out ++ bytes := rfl
@[simp] theorem emit_cutCount (bytes : List Byte) (s : State) : (emit bytes s).cutCount = s.cutCount := rfl

@[simp] theorem raiseErr_sha (op : BitVec 8) (code : ErrorCode) (s : State) : (raiseErr op code s).sha = s.sha := rfl
@[simp] theorem raiseErr_xs (op : BitVec 8) (code : ErrorCode) (s : State) : (raiseErr op code s).xs = s.xs := rfl
@[simp] theorem raiseErr_crc (op : BitVec 8) (code : ErrorCode) (s : State) : (raiseErr op code s).crc = s.crc := rfl
@[simp] theorem raiseErr_ad (op : BitVec 8) (code : ErrorCode) (s : State) : (raiseErr op code s).ad = s.ad := rfl
@[simp] theorem raiseErr_zs (op : BitVec 8) (code : ErrorCode) (s : State) : (raiseErr op code s).zs = s.zs := rfl
@[simp] theorem raiseErr_err (op : BitVec 8) (code : ErrorCode) (s : State) : (raiseErr op code s).err = recordError op code s.err := rfl
@[simp] theorem raiseErr_port (op : BitVec 8) (code : ErrorCode) (s : State) : (raiseErr op code s).port = s.port := rfl
@[simp] theorem raiseErr_responses (op : BitVec 8) (code : ErrorCode) (s : State) : (raiseErr op code s).responses = s.responses ++ [responseWord (errorStatus code) 0] := rfl
@[simp] theorem raiseErr_out (op : BitVec 8) (code : ErrorCode) (s : State) : (raiseErr op code s).out = s.out := rfl
@[simp] theorem raiseErr_cutCount (op : BitVec 8) (code : ErrorCode) (s : State) : (raiseErr op code s).cutCount = s.cutCount := rfl

@[simp] theorem clearErr_sha  (s : State) : (clearErr s).sha = s.sha := rfl
@[simp] theorem clearErr_xs  (s : State) : (clearErr s).xs = s.xs := rfl
@[simp] theorem clearErr_crc  (s : State) : (clearErr s).crc = s.crc := rfl
@[simp] theorem clearErr_ad  (s : State) : (clearErr s).ad = s.ad := rfl
@[simp] theorem clearErr_zs  (s : State) : (clearErr s).zs = s.zs := rfl
@[simp] theorem clearErr_err  (s : State) : (clearErr s).err = .reset := rfl
@[simp] theorem clearErr_port  (s : State) : (clearErr s).port = s.port := rfl
@[simp] theorem clearErr_responses  (s : State) : (clearErr s).responses = s.responses := rfl
@[simp] theorem clearErr_out  (s : State) : (clearErr s).out = s.out := rfl
@[simp] theorem clearErr_cutCount  (s : State) : (clearErr s).cutCount = s.cutCount := rfl

@[simp] theorem resetUnits_sha  (s : State) : (resetUnits s).sha = .reset := rfl
@[simp] theorem resetUnits_xs  (s : State) : (resetUnits s).xs = .reset := rfl
@[simp] theorem resetUnits_crc  (s : State) : (resetUnits s).crc = crcStart := rfl
@[simp] theorem resetUnits_ad  (s : State) : (resetUnits s).ad = .reset := rfl
@[simp] theorem resetUnits_zs  (s : State) : (resetUnits s).zs = .reset := rfl
@[simp] theorem resetUnits_err  (s : State) : (resetUnits s).err = .reset := rfl
@[simp] theorem resetUnits_port  (s : State) : (resetUnits s).port = s.port := rfl
@[simp] theorem resetUnits_responses  (s : State) : (resetUnits s).responses = s.responses := rfl
@[simp] theorem resetUnits_out  (s : State) : (resetUnits s).out = s.out := rfl
@[simp] theorem resetUnits_cutCount  (s : State) : (resetUnits s).cutCount = s.cutCount := rfl

@[simp] theorem openStream_sha (length : Word) (s : State) : (openStream length s).sha = s.sha := rfl
@[simp] theorem openStream_xs (length : Word) (s : State) : (openStream length s).xs = s.xs := rfl
@[simp] theorem openStream_crc (length : Word) (s : State) : (openStream length s).crc = s.crc := rfl
@[simp] theorem openStream_ad (length : Word) (s : State) : (openStream length s).ad = .reset := rfl
@[simp] theorem openStream_zs (length : Word) (s : State) : (openStream length s).zs = { isOpen := true, remain := length, blkrem := blockLen length } := rfl
@[simp] theorem openStream_err (length : Word) (s : State) : (openStream length s).err = s.err := rfl
@[simp] theorem openStream_port (length : Word) (s : State) : (openStream length s).port = s.port := rfl
@[simp] theorem openStream_responses (length : Word) (s : State) : (openStream length s).responses = s.responses := rfl
@[simp] theorem openStream_out (length : Word) (s : State) : (openStream length s).out = s.out ++ ([zsCmf, zsFlg] ++ blockHeader length) := rfl
@[simp] theorem openStream_cutCount (length : Word) (s : State) : (openStream length s).cutCount = s.cutCount := rfl

@[simp] theorem passByte_sha (byte : Byte) (s : State) : (passByte byte s).sha = s.sha := rfl
@[simp] theorem passByte_xs (byte : Byte) (s : State) : (passByte byte s).xs = s.xs := rfl
@[simp] theorem passByte_crc (byte : Byte) (s : State) : (passByte byte s).crc = s.crc := rfl
@[simp] theorem passByte_ad (byte : Byte) (s : State) : (passByte byte s).ad = adlerStep byte s.ad := rfl
@[simp] theorem passByte_zs (byte : Byte) (s : State) : (passByte byte s).zs = countByte s.zs := rfl
@[simp] theorem passByte_err (byte : Byte) (s : State) : (passByte byte s).err = s.err := rfl
@[simp] theorem passByte_port (byte : Byte) (s : State) : (passByte byte s).port = s.port := rfl
@[simp] theorem passByte_responses (byte : Byte) (s : State) : (passByte byte s).responses = s.responses := rfl
@[simp] theorem passByte_out (byte : Byte) (s : State) : (passByte byte s).out = s.out ++ dataBytes byte s.zs := rfl
@[simp] theorem passByte_cutCount (byte : Byte) (s : State) : (passByte byte s).cutCount = s.cutCount := rfl

@[simp] theorem closeStream_sha  (s : State) : (closeStream s).sha = s.sha := rfl
@[simp] theorem closeStream_xs  (s : State) : (closeStream s).xs = s.xs := rfl
@[simp] theorem closeStream_crc  (s : State) : (closeStream s).crc = s.crc := rfl
@[simp] theorem closeStream_ad  (s : State) : (closeStream s).ad = s.ad := rfl
@[simp] theorem closeStream_zs  (s : State) : (closeStream s).zs = { s.zs with isOpen := false } := rfl
@[simp] theorem closeStream_err  (s : State) : (closeStream s).err = s.err := rfl
@[simp] theorem closeStream_port  (s : State) : (closeStream s).port = s.port := rfl
@[simp] theorem closeStream_responses  (s : State) : (closeStream s).responses = s.responses := rfl
@[simp] theorem closeStream_out  (s : State) : (closeStream s).out = s.out ++ adlerTrailer s.ad := rfl
@[simp] theorem closeStream_cutCount  (s : State) : (closeStream s).cutCount = s.cutCount := rfl

@[simp] theorem presentWord_sha (cw : CommandWord) (s : State) : (presentWord cw s).sha = s.sha := rfl
@[simp] theorem presentWord_xs (cw : CommandWord) (s : State) : (presentWord cw s).xs = s.xs := rfl
@[simp] theorem presentWord_crc (cw : CommandWord) (s : State) : (presentWord cw s).crc = s.crc := rfl
@[simp] theorem presentWord_ad (cw : CommandWord) (s : State) : (presentWord cw s).ad = s.ad := rfl
@[simp] theorem presentWord_zs (cw : CommandWord) (s : State) : (presentWord cw s).zs = s.zs := rfl
@[simp] theorem presentWord_err (cw : CommandWord) (s : State) : (presentWord cw s).err = s.err := rfl
@[simp] theorem presentWord_port (cw : CommandWord) (s : State) : (presentWord cw s).port = .command cw :: s.port := rfl
@[simp] theorem presentWord_responses (cw : CommandWord) (s : State) : (presentWord cw s).responses = s.responses := rfl
@[simp] theorem presentWord_out (cw : CommandWord) (s : State) : (presentWord cw s).out = s.out := rfl
@[simp] theorem presentWord_cutCount (cw : CommandWord) (s : State) : (presentWord cw s).cutCount = s.cutCount := rfl

end Sys2Proof.Machine
end

