-- ==== Sys2Proof/Laws/Ops.lean ====
section
/-! SUPPORT. What each shared operation can do, said once: the checks of a command, the error response, one command word, one
host event, a cut-short command, one step. -/

namespace Sys2Proof.Machine

@[simp] theorem firstError_nil : firstError [] = none := rfl

@[simp] theorem firstError_cons (fails : Bool) (code : ErrorCode) (rest : List (Bool × ErrorCode)) :
    firstError ((fails, code) :: rest) = if fails then some code else firstError rest := rfl

/-- No check fails exactly if every one is false. -/
theorem firstError_eq_none {checks : List (Bool × ErrorCode)} :
    firstError checks = none ↔ ∀ c ∈ checks, c.1 = false := by
  induction checks with
  | nil => simp
  | cons c rest ih => obtain ⟨fails, code⟩ := c; cases fails <;> simp [ih]

/-- A reported error is one of the checks, and it fails. -/
theorem firstError_mem {checks : List (Bool × ErrorCode)} {code : ErrorCode} (h : firstError checks = some code) :
    (true, code) ∈ checks := by
  induction checks with
  | nil => simp at h
  | cons c rest ih => obtain ⟨fails, d⟩ := c; cases fails <;> simp_all

@[simp] theorem reservedSet_zero (n : Nat) : reservedSet (0 : BitVec n) = false := by simp [reservedSet]

theorem reservedSet_eq_true {n : Nat} {r : BitVec n} : reservedSet r = true ↔ r ≠ 0 := by simp [reservedSet]

theorem reservedSet_eq_false {n : Nat} {r : BitVec n} : reservedSet r = false ↔ r = 0 := by simp [reservedSet]

/-- A command whose checks all pass does its work and answers `OK`. -/
theorem runCommand_ok {op : BitVec 8} {checks : List (Bool × ErrorCode)} (h : firstError checks = none) (done : State)
    (res : Word) (s : State) : runCommand op checks done res s = .next (respond statusOk res done) := by
  simp [runCommand, h]

/-- A command with a failing check raises the first one's error. -/
theorem runCommand_error {op : BitVec 8} {checks : List (Bool × ErrorCode)} {code : ErrorCode}
    (h : firstError checks = some code) (done : State) (res : Word) (s : State) :
    runCommand op checks done res s = .next (raiseErr op code s) := by
  simp [runCommand, h]

/-- All that a command can do: an error response, or its work and an `OK` response. -/
theorem runCommand_cases {op : BitVec 8} {checks : List (Bool × ErrorCode)} {done : State} {res : Word} {s t : State}
    (h : runCommand op checks done res s = .next t) :
    (∃ code, firstError checks = some code ∧ t = raiseErr op code s) ∨
    (firstError checks = none ∧ t = respond statusOk res done) := by
  unfold runCommand at h
  split at h
  · exact .inl ⟨_, by assumption, by simpa using h.symm⟩
  · exact .inr ⟨by assumption, by simpa using h.symm⟩

/-- A command always leaves a next state. -/
theorem runCommand_next (op : BitVec 8) (checks : List (Bool × ErrorCode)) (done : State) (res : Word) (s : State) :
    ∃ t, runCommand op checks done res s = .next t := by
  unfold runCommand
  split <;> exact ⟨_, rfl⟩

/-- The first error is recorded. -/
theorem recordError_first (op : BitVec 8) (code : ErrorCode) {e : ErrorRecord} (h : e.err = false) :
    recordError op code e = { err := true, code := errorStatus code, op := op } := by
  simp [recordError, h]

/-- A later error is not recorded. -/
theorem recordError_later (op : BitVec 8) (code : ErrorCode) {e : ErrorRecord} (h : e.err = true) :
    recordError op code e = e := by
  simp [recordError, h]

@[simp] theorem recordError_err (op : BitVec 8) (code : ErrorCode) (e : ErrorRecord) :
    (recordError op code e).err = true := by
  unfold recordError; split <;> simp_all

/-- An error's status code is 1 to 5. -/
theorem errorStatus_range (code : ErrorCode) : 1 ≤ (errorStatus code).toNat ∧ (errorStatus code).toNat ≤ 5 := by
  cases code <;> decide

/-- All that a command word can do. -/
theorem runWord_cases {cw : CommandWord} {s t : State} (h : runWord cw s = .next t) :
    (∃ i, decode cw = .ok i ∧ exec i s = .next t) ∨
    (∃ op, decode cw = .error (.illegalOpcode op) ∧ t = raiseErr op .illop s) := by
  unfold runWord at h
  split at h
  · exact .inl ⟨_, by assumption, h⟩
  · exact .inr ⟨_, by assumption, by simpa using h.symm⟩

/-- All that a hard reset in mid-command can leave: the reset units, with all of the command's responses and bytes, or with
its bytes cut off somewhere and no response. -/
theorem cutShort_cases (s t : State) :
    cutShort s t = { resetUnits t with cutCount := s.cutCount + 1 } ∨
    ∃ k, cutShort s t = { resetUnits s with out := t.out.take (s.out.length + k), cutCount := s.cutCount + 1 } := by
  unfold cutShort
  by_cases h : Config.cutResponds s.cutCount
  · exact .inl (by simp [h])
  · exact .inr ⟨Config.cutBytes s.cutCount, by simp [h]⟩

/-- All that a host event can do. -/
theorem takeEvent_cases {e : HostEvent} {s t : State} (h : takeEvent e s = .next t) :
    (∃ cw, e = .command cw ∧ runWord cw s = .next t) ∨
    (∃ during, e = .hardReset none during ∧ t = resetUnits s) ∨
    (∃ cw during u, e = .hardReset (some cw) during ∧ runWord cw s = .next u ∧ t = cutShort s u) := by
  unfold takeEvent at h
  split at h
  · exact .inl ⟨_, rfl, h⟩
  · exact .inr (.inl ⟨_, rfl, by simpa using h.symm⟩)
  · split at h
    · exact .inr (.inr ⟨_, _, _, rfl, by assumption, by simpa using h.symm⟩)
    · exact absurd h (by simp)
    · exact absurd h (by simp)

/-- All that a step can do: idle, or take the next host event. -/
theorem step_cases {s t : State} (h : step s = .next t) :
    (s.port = [] ∧ t = s) ∨ (∃ e rest, s.port = e :: rest ∧ takeEvent e { s with port := rest } = .next t) := by
  unfold step takeNext at h
  split at h
  · exact .inl ⟨by assumption, by simpa using h.symm⟩
  · exact .inr ⟨_, _, by assumption, h⟩

end Sys2Proof.Machine
end

