-- ==== Sys2Proof/Laws/PerInstr.lean ====
section
/-! SUPPORT. The statements made per instruction. -/

namespace Sys2Proof.Laws

/-- The encoder puts the opcode of the opcode map in bits 39:32, and the map has exactly one row with it (R90, R93). -/
def EncodeOpcode.Statement (i : Instr) : Prop :=
  opField (encode i) = i.opcode ∧ (opcodeTable.filter (·.op == i.opcode)).length = 1

theorem EncodeOpcode.sysNop (r : BitVec 32) : EncodeOpcode.Statement (.sysNop r) := ⟨opField_encode _, rfl⟩
theorem EncodeOpcode.sysReset (r : BitVec 32) : EncodeOpcode.Statement (.sysReset r) := ⟨opField_encode _, rfl⟩
theorem EncodeOpcode.sysRdcsr (r : BitVec 28) (index : BitVec 4) : EncodeOpcode.Statement (.sysRdcsr r index) := ⟨opField_encode _, rfl⟩
theorem EncodeOpcode.sysClrerr (r : BitVec 32) : EncodeOpcode.Statement (.sysClrerr r) := ⟨opField_encode _, rfl⟩
theorem EncodeOpcode.shaInit (r : BitVec 32) : EncodeOpcode.Statement (.shaInit r) := ⟨opField_encode _, rfl⟩
theorem EncodeOpcode.shaUpdate (r : BitVec 24) (byte : Byte) : EncodeOpcode.Statement (.shaUpdate r byte) := ⟨opField_encode _, rfl⟩
theorem EncodeOpcode.shaFinal (r : BitVec 32) : EncodeOpcode.Statement (.shaFinal r) := ⟨opField_encode _, rfl⟩
theorem EncodeOpcode.shaRead (r : BitVec 29) (index : BitVec 3) : EncodeOpcode.Statement (.shaRead r index) := ⟨opField_encode _, rfl⟩
theorem EncodeOpcode.xsInit (r : BitVec 32) : EncodeOpcode.Statement (.xsInit r) := ⟨opField_encode _, rfl⟩
theorem EncodeOpcode.xsSeed (word : Word) : EncodeOpcode.Statement (.xsSeed word) := ⟨opField_encode _, rfl⟩
theorem EncodeOpcode.xsStart (r : BitVec 32) : EncodeOpcode.Statement (.xsStart r) := ⟨opField_encode _, rfl⟩
theorem EncodeOpcode.xsNext (r : BitVec 32) : EncodeOpcode.Statement (.xsNext r) := ⟨opField_encode _, rfl⟩
theorem EncodeOpcode.xsInt (min max : BitVec 16) : EncodeOpcode.Statement (.xsInt min max) := ⟨opField_encode _, rfl⟩
theorem EncodeOpcode.xsPick (length : Word) : EncodeOpcode.Statement (.xsPick length) := ⟨opField_encode _, rfl⟩
theorem EncodeOpcode.xsBool (threshold : Word) : EncodeOpcode.Statement (.xsBool threshold) := ⟨opField_encode _, rfl⟩
theorem EncodeOpcode.crcInit (r : BitVec 32) : EncodeOpcode.Statement (.crcInit r) := ⟨opField_encode _, rfl⟩
theorem EncodeOpcode.crcUpdate (r : BitVec 24) (byte : Byte) : EncodeOpcode.Statement (.crcUpdate r byte) := ⟨opField_encode _, rfl⟩
theorem EncodeOpcode.crcRead (r : BitVec 32) : EncodeOpcode.Statement (.crcRead r) := ⟨opField_encode _, rfl⟩
theorem EncodeOpcode.adInit (r : BitVec 32) : EncodeOpcode.Statement (.adInit r) := ⟨opField_encode _, rfl⟩
theorem EncodeOpcode.adUpdate (r : BitVec 24) (byte : Byte) : EncodeOpcode.Statement (.adUpdate r byte) := ⟨opField_encode _, rfl⟩
theorem EncodeOpcode.adRead (r : BitVec 32) : EncodeOpcode.Statement (.adRead r) := ⟨opField_encode _, rfl⟩
theorem EncodeOpcode.zsBegin (length : Word) : EncodeOpcode.Statement (.zsBegin length) := ⟨opField_encode _, rfl⟩
theorem EncodeOpcode.zsData (r : BitVec 24) (byte : Byte) : EncodeOpcode.Statement (.zsData r byte) := ⟨opField_encode _, rfl⟩
theorem EncodeOpcode.zsEnd (r : BitVec 32) : EncodeOpcode.Statement (.zsEnd r) := ⟨opField_encode _, rfl⟩

end Sys2Proof.Laws
end

