-- ==== Sys2Proof/Laws/Units.lean ====
section
/-! SUPPORT. What each unit operation leaves, said once: the SHA buffer and counters, the generator, the checksums, the stream. -/

namespace Sys2Proof.Machine

/-- There is a round constant for each of the 64 rounds (R121). -/
@[simp] theorem shaK_length : shaK.length = 64 := rfl

/-- All that absorbing a byte can do (R125). -/
theorem absorbByte_cases (byte : Byte) (u : ShaUnit) :
    (u.fill = 63 ∧ absorbByte byte u =
      { u with h := compress u.h (u.buf.write u.fill byte), buf := u.buf.write u.fill byte, fill := 0, len := u.len + 1 }) ∨
    (u.fill ≠ 63 ∧ absorbByte byte u =
      { u with buf := u.buf.write u.fill byte, fill := u.fill + 1, len := u.len + 1 }) := by
  by_cases h : u.fill = 63
  · exact .inl ⟨h, by simp [absorbByte, h, Memory.memWrite_one]⟩
  · exact .inr ⟨h, by rw [absorbByte, if_neg h, Memory.memWrite_one]⟩

@[simp] theorem absorbByte_len (byte : Byte) (u : ShaUnit) : (absorbByte byte u).len = u.len + 1 := by
  unfold absorbByte; split <;> rfl

@[simp] theorem absorbByte_done (byte : Byte) (u : ShaUnit) : (absorbByte byte u).done = u.done := by
  unfold absorbByte; split <;> rfl

@[simp] theorem absorbByte_buf (byte : Byte) (u : ShaUnit) : (absorbByte byte u).buf = u.buf.write u.fill byte := by
  unfold absorbByte; split <;> simp [Memory.memWrite_one]

/-- The fill count goes up by one and from 63 to 0 (R125). -/
@[simp] theorem absorbByte_fill (byte : Byte) (u : ShaUnit) : (absorbByte byte u).fill = u.fill + 1 := by
  unfold absorbByte
  split
  · rename_i h; simp [h]
  · rfl

@[simp] theorem finalize_fill (u : ShaUnit) : (finalize u).fill = 0 := by
  simp only [finalize]; split <;> rfl

@[simp] theorem finalize_done (u : ShaUnit) : (finalize u).done = true := by
  simp only [finalize]; split <;> rfl

/-- `sha_len` keeps its value (R126 step 7). -/
@[simp] theorem finalize_len (u : ShaUnit) : (finalize u).len = u.len := by
  simp only [finalize]; split <;> rfl

@[simp] theorem closeBlock_buf (u : ShaUnit) (f : Nat) (h : Vector Word 8) (buf : Memory) :
    (closeBlock u f h buf).buf = (buf.zero f 56).memWrite 56 8 (bitLength u) := rfl

/-- Closing a block keeps the buffer's canonical form. -/
theorem closeBlock_wf {buf : Memory} (hb : Memory.wf buf) (u : ShaUnit) (f : Nat) (h : Vector Word 8) :
    Memory.wf (closeBlock u f h buf).buf := by
  rw [closeBlock_buf]
  exact Memory.wf_memWrite (Memory.wf_zero hb f 56) 56 8 (bitLength u)

/-- Padding keeps the buffer's canonical form. -/
theorem finalize_wf {u : ShaUnit} (h : Memory.wf u.buf) : Memory.wf (finalize u).buf := by
  have first := Memory.wf_memWrite h u.fill 1 (0x80 : Byte)
  rw [finalize]
  split
  · exact closeBlock_wf (Memory.wf_zero first _ 64) _ _ _
  · exact closeBlock_wf first _ _ _

@[simp] theorem drawState_st (u : XsUnit) : (drawState u).st = u.st := rfl

@[simp] theorem drawState_cnt (u : XsUnit) : (drawState u).cnt = u.cnt := rfl

@[simp] theorem drawState_pair (u : XsUnit) : (drawState u).pair = advance xsMix u.pair := rfl

@[simp] theorem withPair_pair (u : XsUnit) (p : Word × Word) : (u.withPair p).pair = p := rfl

@[simp] theorem withPair_withPair (u : XsUnit) (p q : Word × Word) : (u.withPair p).withPair q = u.withPair q := rfl

/-- `n` draws change only the state words. -/
theorem iterate_drawState (n : Nat) (u : XsUnit) :
    Nat.iterate drawState n u = u.withPair (Nat.iterate (advance xsMix) n u.pair) := by
  induction n generalizing u with
  | zero => simp only [Function.iterate_zero, id_eq]; rfl
  | succ n ih => simp only [Function.iterate_succ, Function.comp_apply, ih, drawState, withPair_withPair, withPair_pair]

@[simp] theorem xsWarmUp_st (u : XsUnit) : (xsWarmUp u).st = .ready := rfl

@[simp] theorem xsWarmUp_pair (u : XsUnit) : (xsWarmUp u).pair = Nat.iterate (advance xsMix) xsWarmup u.pair := by
  simp only [xsWarmUp, iterate_drawState]; rfl

/-- All that a seed word can do (R152). -/
theorem xsTakeSeed_cases (word : Word) (u : XsUnit) :
    (u.cnt = 0 ∧ xsTakeSeed word u = { u with s0 := if word = 0 then xsFallback0 else word, cnt := 1 }) ∨
    (u.cnt = 1 ∧ xsTakeSeed word u = { u with s1 := if word = 0 then xsFallback1 else word, cnt := 2 }) ∨
    (u.cnt = 2 ∧ xsTakeSeed word u = drawState { u with s0 := u.s0 ^^^ word }) := by
  obtain ⟨s0, s1, st, cnt⟩ := u
  fin_cases cnt
  · exact .inl ⟨rfl, rfl⟩
  · exact .inr (.inl ⟨rfl, rfl⟩)
  · exact .inr (.inr ⟨rfl, rfl⟩)

@[simp] theorem xsTakeSeed_st (word : Word) (u : XsUnit) : (xsTakeSeed word u).st = u.st := by
  rcases xsTakeSeed_cases word u with ⟨-, h⟩ | ⟨-, h⟩ | ⟨-, h⟩ <;> simp [h]

/-- The first fallback constant is not 0 (R7). -/
theorem xsFallback0_ne_zero : xsFallback0 ≠ 0 := by
  have h := Config.xsFallback0Choice.isLt
  intro e
  have := congrArg BitVec.toNat e
  simp only [xsFallback0, BitVec.toNat_ofNat, BitVec.ofNat_eq_ofNat] at this
  omega

/-- The second fallback constant is neither 0 nor the first (R7). -/
theorem xsFallback1_ne : xsFallback1 ≠ 0 ∧ xsFallback0 ≠ xsFallback1 := by
  have h0 := Config.xsFallback0Choice.isLt
  have h1 := Config.xsFallback1Choice.isLt
  constructor
  all_goals
    intro e
    have := congrArg BitVec.toNat e
    simp only [xsFallback0, xsFallback1] at this
    split at this
    all_goals
      simp only [BitVec.toNat_ofNat, BitVec.ofNat_eq_ofNat] at this
      omega

/-- The new `a` as a number (R190). -/
@[simp] theorem adlerStep_a (byte : Byte) (u : AdUnit) :
    (adlerStep byte u).a.toNat = (u.a.toNat + byte.toNat) % 65521 := by
  simp only [adlerStep, adMod, BitVec.toNat_ofNat]; omega

/-- The new `b` as a number; it takes the new `a` (R190). -/
@[simp] theorem adlerStep_b (byte : Byte) (u : AdUnit) :
    (adlerStep byte u).b.toNat = (u.b.toNat + (u.a.toNat + byte.toNat) % 65521) % 65521 := by
  simp only [adlerStep, adMod, BitVec.toNat_ofNat]; omega

/-- `LEN` as a number (R201). -/
@[simp] theorem blockLen_toNat (remain : Word) : (blockLen remain).toNat = min remain.toNat 65535 := by
  simp only [blockLen, zsBlockMax, BitVec.toNat_ofNat]; omega

@[simp] theorem countByte_isOpen (u : ZsUnit) : (countByte u).isOpen = u.isOpen := rfl

@[simp] theorem countByte_remain (u : ZsUnit) : (countByte u).remain = u.remain - 1 := rfl

@[simp] theorem blockHeader_length (remain : Word) : (blockHeader remain).length = 5 := rfl

end Sys2Proof.Machine
end

