-- ==== Sys2Proof/Machine/Assembler.lean ====
section
/-! DEFINITION. The text form of a command (R98): one command a line, its mnemonic, and its operand by format. What R98 leaves
open (white space, the case of hexadecimal digits, an operand that does not fit its field) is in log 14. -/

namespace Sys2Proof.Machine

/-- A space or a tab. -/
def isBlank (c : Char) : Bool := c == ' ' || c == '\t'

/-- A line without its comment (R98): `;` starts one, but not as the character between two single quotes (log 14). -/
def dropComment : List Char → List Char
  | '\'' :: c :: '\'' :: rest => '\'' :: c :: '\'' :: dropComment rest
  | ';' :: _ => []
  | c :: rest => c :: dropComment rest
  | [] => []

/-- A text without the blanks at both ends. -/
def trimBlanks (text : List Char) : List Char := ((text.dropWhile isBlank).reverse.dropWhile isBlank).reverse

/-- The value of a digit in base 10 or 16. -/
def digitValue (c : Char) : Option Nat :=
  if '0' ≤ c ∧ c ≤ '9' then some (c.toNat - '0'.toNat)
  else if 'a' ≤ c ∧ c ≤ 'f' then some (c.toNat - 'a'.toNat + 10)
  else if 'A' ≤ c ∧ c ≤ 'F' then some (c.toNat - 'A'.toNat + 10)
  else none

/-- The value of a digit string in a base, continuing from `acc`. -/
def digitsFrom (base acc : Nat) : List Char → Option Nat
  | [] => some acc
  | c :: rest =>
    match digitValue c with
    | some d => if d < base then digitsFrom base (acc * base + d) rest else none
    | none => none

/-- A digit string with at least one digit. -/
def digits (base : Nat) : List Char → Option Nat
  | [] => none
  | text => digitsFrom base 0 text

/-- A number: decimal, or hexadecimal with `0x` (R98). -/
def number : List Char → Option Nat
  | '0' :: 'x' :: text => digits 16 text
  | text => digits 10 text

/-- A number of an `n`-bit field; one that does not fit is refused (log 14). -/
def fieldNumber (n : Nat) (text : List Char) : Option (BitVec n) :=
  match number text with
  | some v => if v < 2 ^ n then some (BitVec.ofNat n v) else none
  | none => none

/-- A byte operand: a number or one ASCII character in single quotes (R98). -/
def byteOperand (text : List Char) : Option Byte :=
  match text with
  | ['\'', c, '\''] => if c.toNat < 128 then some (BitVec.ofNat 8 c.toNat) else none
  | _ => fieldNumber 8 text

/-- An operand of `XS_INT`: a number, which may be negative, encoded in 16-bit two's complement (R98, R91). -/
def signedOperand (text : List Char) : Option (BitVec 16) :=
  match text with
  | '-' :: magnitude =>
    match number magnitude with
    | some v => if v ≤ 2 ^ 15 then some (BitVec.ofInt 16 (-(v : Int))) else none
    | none => none
  | _ =>
    match number text with
    | some v => if v < 2 ^ 15 then some (BitVec.ofNat 16 v) else none
    | none => none

/-- A decimal fraction as numerator and number of fraction digits. What counts as one is the model's choice (log 14): at least
one digit before the point; the point, and digits after it, may be missing; no sign, no blank, no hexadecimal. -/
def decimalFraction (text : List Char) : Option (Nat × Nat) :=
  let whole := text.takeWhile (· != '.')
  let fraction := (text.dropWhile (· != '.')).drop 1
  match digits 10 (whole ++ fraction) with
  | some v => if whole.isEmpty then none else some (v, fraction.length)
  | none => none

/-- The operand of `XS_BOOL` (R98): none for the default `0x80000000`, `p=` and a fraction for `ceil(p * 2^32)`, which must be
below 2^32, or a number. -/
def thresholdOperand (text : List Char) : Option Word :=
  match text with
  | [] => some 0x80000000
  | 'p' :: '=' :: fraction =>
    match decimalFraction fraction with
    | some (v, k) =>
      let t := (v * 2 ^ 32 + (10 ^ k - 1)) / 10 ^ k
      if t < 2 ^ 32 then some (BitVec.ofNat 32 t) else none
    | none => none
  | _ => fieldNumber 32 text

/-- The operand of format `P`: two operands and a comma. -/
def pairOperand (text : List Char) : Option Word :=
  let low := trimBlanks (text.takeWhile (· != ','))
  match text.dropWhile (· != ',') with
  | ',' :: rest =>
    match signedOperand low, signedOperand (trimBlanks rest) with
    | some min, some max => some (argP min max)
    | _, _ => none
  | _ => none

/-- `ARG` of a row's command from its operand text, every reserved bit 0 (R98, R91). -/
def argOfText (row : OpcodeRow) (text : List Char) : Option Word :=
  match row.format with
  | .n => if text.isEmpty then some 0 else none
  | .b => (byteOperand text).map (·.setWidth 32)
  | .w => if row.op = opXsBool then thresholdOperand text else fieldNumber 32 text
  | .p => pairOperand text
  | .i3 => (fieldNumber 3 text).map (·.setWidth 32)
  | .i4 => (fieldNumber 4 text).map (·.setWidth 32)

/-- The command words of one line of text (R98): none on a blank or comment line, one on a command, `none` where the line
is neither. -/
def assembleLine (line : String) : Option (List CommandWord) :=
  let text := trimBlanks (dropComment line.toList)
  if text.isEmpty then some []
  else
    let name := text.takeWhile (!isBlank ·)
    match opcodeTable.find? (fun row => row.mnemonic.toList == name) with
    | some row => (argOfText row (trimBlanks (text.dropWhile (!isBlank ·)))).map fun arg => [commandWord row.op arg]
    | none => none

end Sys2Proof.Machine
end

