-- ==== Sys2Proof/Tests/Slice0.lean ====
section
/-! SUPPORT. Tests: the operand check refuses ill-formed commands, command words written out from R91 and R93 decode, one step
of each command gives the values the spec prints (each theorem names the rule or vector), and every obligation with
hypotheses has a witness that meets them (theorems `witness_…`). -/

namespace Sys2Proof.Tests

open Sys2Proof Sys2Proof.Machine

/-! WellFormed: one ill-formed command for each check of R94. -/

theorem test_format_n_reserved_refused : Instr.wellFormed (.sysNop 1) = false := by decide
theorem test_format_b_reserved_refused : Instr.wellFormed (.shaUpdate 1 0x61) = false := by decide
theorem test_format_i3_reserved_refused : Instr.wellFormed (.shaRead 1 0) = false := by decide
theorem test_format_i4_reserved_refused : Instr.wellFormed (.sysRdcsr 1 0) = false := by decide
theorem test_csr_index_13_refused : Instr.wellFormed (.sysRdcsr 0 13) = false := by decide
theorem test_csr_index_12_accepted : Instr.wellFormed (.sysRdcsr 0 12) = true := by decide
theorem test_pick_length_0_refused : Instr.wellFormed (.xsPick 0) = false := by decide
theorem test_format_w_and_p_accepted :
    Instr.wellFormed (.xsSeed 0) = true ∧ Instr.wellFormed (.xsInt 0xFFFF 0) = true := by decide

/-! Decoding: every command's word, written out from its opcode (R93) and its format's fields (R91). -/

theorem test_decode_sys :
    decode 0x0000000000 = .ok (.sysNop 0) ∧ decode 0x0180000001 = .ok (.sysReset 0x80000001) ∧
    decode 0x02FFFFFFF7 = .ok (.sysRdcsr 0xFFFFFFF 7) ∧ decode 0x0300000000 = .ok (.sysClrerr 0) := by decide

theorem test_decode_sha :
    decode 0x1000000000 = .ok (.shaInit 0) ∧ decode 0x1112345661 = .ok (.shaUpdate 0x123456 0x61) ∧
    decode 0x1200000000 = .ok (.shaFinal 0) ∧ decode 0x130000000F = .ok (.shaRead 1 7) := by decide

theorem test_decode_xs_seeding :
    decode 0x2000000000 = .ok (.xsInit 0) ∧ decode 0x21e3b0c442 = .ok (.xsSeed 0xe3b0c442) ∧
    decode 0x2200000000 = .ok (.xsStart 0) := by decide

theorem test_decode_xs_drawing :
    decode 0x2300000000 = .ok (.xsNext 0) ∧ decode 0x2400000032 = .ok (.xsInt 0 50) ∧
    decode 0x24fffb0005 = .ok (.xsInt (-5) 5) ∧ decode 0x250000000a = .ok (.xsPick 10) ∧
    decode 0x2680000000 = .ok (.xsBool 0x80000000) := by decide

theorem test_decode_crc :
    decode 0x3000000000 = .ok (.crcInit 0) ∧ decode 0x3100000049 = .ok (.crcUpdate 0 0x49) ∧
    decode 0x3200000000 = .ok (.crcRead 0) := by decide

theorem test_decode_ad :
    decode 0x4000000000 = .ok (.adInit 0) ∧ decode 0x4100000061 = .ok (.adUpdate 0 0x61) ∧
    decode 0x4200000000 = .ok (.adRead 0) := by decide

theorem test_decode_zs :
    decode 0x5000000003 = .ok (.zsBegin 3) ∧ decode 0x5100000161 = .ok (.zsData 1 0x61) ∧
    decode 0x5200000000 = .ok (.zsEnd 0) := by decide

/-- The ends of the ranges of R95. -/
theorem test_decode_illegal :
    decode 0x0400000000 = .error (.illegalOpcode 0x04) ∧ decode 0x1F00000000 = .error (.illegalOpcode 0x1F) ∧
    decode 0x2700000000 = .error (.illegalOpcode 0x27) ∧ decode 0x3300000000 = .error (.illegalOpcode 0x33) ∧
    decode 0x4F00000000 = .error (.illegalOpcode 0x4F) ∧ decode 0x53FFFFFFFF = .error (.illegalOpcode 0x53) ∧
    decode 0xFF12345678 = .error (.illegalOpcode 0xFF) := by decide

/-- Each row's encoder word is the word of the spec's examples (R158, R202, R222). -/
theorem test_encode_examples :
    encode (.xsInt (-5) 5) = 0x24fffb0005 ∧ encode (.zsBegin 3) = 0x5000000003 ∧
    encode (.sysRdcsr 0 1) = 0x0200000001 := by decide

theorem test_decode_table_word :
    decodeTableWord 40 0x5100000061 = some (.zsData 0 0x61) ∧ decodeTableWord 40 0x5300000000 = none := by decide

/-! Assembler text (R98). -/

theorem test_assemble_forms :
    assembleLine "SHA_UPDATE 'a'" = some [0x1100000061] ∧ assembleLine "XS_INT -5, 5 ; a comment" = some [0x24fffb0005] ∧
    assembleLine "XS_BOOL" = some [0x2680000000] ∧ assembleLine "XS_BOOL p=0.5" = some [0x2680000000] ∧
    assembleLine "SYS_RDCSR 0xc" = some [0x020000000c] ∧ assembleLine "; nothing" = some [] := by decide +kernel

theorem test_assemble_refused :
    assembleLine "XS_BOOL p=.5" = none ∧ assembleLine "XS_BOOL p=0." = some [0x2600000000] ∧
    assembleLine "SHA_READ -1" = none ∧ assembleLine "XS_BOOL p=1.0" = none ∧ assembleLine "SYS_NOP 1" = none := by
  decide +kernel

/-! Small states. The generator's words stand in for the fallback constants, which have no value. -/

/-- The reset state with known generator words. -/
def quiet : State := { State.reset with xs := { s0 := 7, s1 := 9, st := .unseeded, cnt := 0 } }

/-- `quiet` with the generator in a given unit state. -/
def withXs (s0 s1 : Word) (st : XsState) (cnt : Fin 3) : State :=
  { quiet with xs := { s0 := s0, s1 := s1, st := st, cnt := cnt } }

/-- `quiet` with a given message in progress or finished. -/
def withSha (fill : BitVec 6) (len : BitVec 61) (done : Bool) : State :=
  { quiet with sha := { ShaUnit.reset with fill := fill, len := len, done := done } }

/-- `quiet` with an open stream. -/
def withZs (remain : Word) (blkrem : BitVec 16) (a b : BitVec 16) : State :=
  { quiet with zs := { isOpen := true, remain := remain, blkrem := blkrem }, ad := { a := a, b := b } }

/-- `quiet` with an error recorded. -/
def withErr : State := { quiet with err := { err := true, code := 3, op := 0x23 } }

/-- The state a command leaves. -/
def ran (i : Instr) (s : State) : State :=
  match exec i s with
  | .next t => t
  | _ => s

/-- What a command answers. -/
def answers (i : Instr) (s : State) (st : BitVec 4) (res : Word) : Bool := (ran i s).responses == [responseWord st res]

/-! One step of each command. -/

/-- R220. -/
theorem test_nop_answers_ok : answers (.sysNop 0) quiet 0 0 = true ∧ (ran (.sysNop 0) quiet).err.err = false := by decide

/-- R220, R232; P3 line 25. -/
theorem test_nop_reserved_records :
    answers (.sysNop 1) quiet 2 0 = true ∧ (ran (.sysNop 1) quiet).err = { err := true, code := 2, op := 0x00 } := by decide

/-- R221: a stream opened by hand is closed, its bytes stay. -/
theorem test_reset_closes_stream :
    (ran (.sysReset 0) { withZs 4 4 1 0 with out := [0xde], crc := 5 }).zs = { isOpen := false, remain := 0, blkrem := 0 } ∧
    (ran (.sysReset 0) { withZs 4 4 1 0 with out := [0xde] }).out = [0xde] ∧
    (ran (.sysReset 0) { quiet with crc := 5 }).crc = 0xFFFFFFFF := by decide

/-- R41: P4 line 18 (`SHA_DONE`, `ZS_OPEN`), P1's end (`SHA_DONE`, `XS_ST = 2`), P3 line 4 (`ERR`). -/
theorem test_rdcsr_status :
    answers (.sysRdcsr 0 0) { withSha 0 3 true with zs := { isOpen := true, remain := 3, blkrem := 3 } } 0 0x09 = true ∧
    answers (.sysRdcsr 0 0) { withSha 0 3 true with xs := { s0 := 1, s1 := 2, st := .ready, cnt := 2 } } 0 0x05 = true ∧
    answers (.sysRdcsr 0 0) withErr 0 0x10 = true := by decide

/-- R42, P3 line 3; R43: both halves of `sha_len`. -/
theorem test_rdcsr_errinfo_and_length :
    answers (.sysRdcsr 0 1) withErr 0 0x2303 = true ∧
    answers (.sysRdcsr 0 2) (withSha 0 0x1FFFFFFF00000003 false) 0 3 = true ∧
    answers (.sysRdcsr 0 3) (withSha 0 0x1FFFFFFF00000003 false) 0 0x1FFFFFFF = true := by decide

/-- R223: cleared, and a refused one clears nothing. -/
theorem test_clrerr :
    (ran (.sysClrerr 0) withErr).err = .reset ∧ (ran (.sysClrerr 1) withErr).err = withErr.err := by decide

/-- R124. -/
theorem test_sha_init_restarts :
    (ran (.shaInit 0) { quiet with
      sha := { h := Vector.replicate 8 0, buf := [(0, 1)], fill := 5, len := 5, done := true } }).sha
      = .reset := by decide

/-- R125: from reset, the first byte. -/
theorem test_sha_update_first_byte :
    (ran (.shaUpdate 0 0x61) quiet).sha = { ShaUnit.reset with buf := [(0, 0x61)], fill := 1, len := 1 } := by decide

/-- R231: the length limit. -/
theorem test_sha_update_length_limit : answers (.shaUpdate 0 0x61) (withSha 63 0x1FFFFFFFFFFFFFFF false) 5 0 = true := by decide

/-- R126, V1: `SHA_FINAL` alone gives the digest of the empty message. -/
theorem test_sha_final_empty :
    (ran (.shaFinal 0) quiet).sha.h
      = #v[0xe3b0c442, 0x98fc1c14, 0x9afbf4c8, 0x996fb924, 0x27ae41e4, 0x649b934c, 0xa495991b, 0x7852b855] := by
  decide +kernel

/-- P4 lines 10 to 12: the digest of "abc". -/
theorem test_sha_final_abc :
    let t := ran (.shaFinal 0)
      { quiet with sha := { ShaUnit.reset with buf := [(0, 0x61), (1, 0x62), (2, 0x63)], fill := 3, len := 3 } }
    t.sha.h[0] = 0xba7816bf ∧ t.sha.h[7] = 0xf20015ad ∧ t.sha.done = true ∧ t.sha.len = 3 := by decide +kernel

/-- R127: words are read most significant first; V1's first and last. -/
theorem test_sha_read_words :
    answers (.shaRead 0 0) (withSha 0 0 true) 0 0x6a09e667 = true ∧
    answers (.shaRead 0 7) (withSha 0 0 true) 0 0x5be0cd19 = true := by decide

/-- R127: no digest yet; an index above 7 is refused first. -/
theorem test_sha_read_refused : answers (.shaRead 0 0) quiet 3 0 = true ∧ answers (.shaRead 1 0) quiet 2 0 = true := by decide

/-- R151: the unit state and the count; the words have no value. -/
theorem test_xs_init_starts_seeding :
    (ran (.xsInit 0) quiet).xs.st = .seeding ∧ (ran (.xsInit 0) (withXs 1 2 .ready 2)).xs.cnt = 0 := by decide

/-- R152: first and second word; the example's folding case with the words 3 and 0. -/
theorem test_xs_seed_words :
    (ran (.xsSeed 1) (withXs 7 9 .seeding 0)).xs = { s0 := 1, s1 := 9, st := .seeding, cnt := 1 } ∧
    (ran (.xsSeed 2) (withXs 1 9 .seeding 1)).xs = { s0 := 1, s1 := 2, st := .seeding, cnt := 2 } := by decide

/-- R152's example: `XS_SEED 3`, then `XS_SEED 0`. -/
theorem test_xs_seed_folds :
    (ran (.xsSeed 3) (withXs 1 2 .seeding 2)).xs = { s0 := 0x00000002, s1 := 0x01000000, st := .seeding, cnt := 2 } ∧
    (ran (.xsSeed 0) (withXs 0x00000002 0x01000000 .seeding 2)).xs
      = { s0 := 0x01000000, s1 := 0x00000002, st := .seeding, cnt := 2 } := by decide

/-- R153's example. -/
theorem test_xs_start_warms_up :
    (ran (.xsStart 0) (withXs 1 2 .seeding 2)).xs = { s0 := 0x2c80308b, s1 := 0x658012d9, st := .ready, cnt := 2 } := by
  decide +kernel

/-- R155's example, and R156's first value. -/
theorem test_xs_next_draws :
    answers (.xsNext 0) (withXs 1 2 .ready 2) 0 0x00800005 = true ∧
    (ran (.xsNext 0) (withXs 1 2 .ready 2)).xs = { s0 := 2, s1 := 0x00800003, st := .ready, cnt := 2 } ∧
    answers (.xsNext 0) (withXs 0x2c80308b 0x658012d9 .ready 2) 0 0x720046e4 = true := by decide

/-- P3 line 1. -/
theorem test_xs_next_unseeded : answers (.xsNext 0) quiet 3 0 = true := by decide

/-- R158's examples with `U = 0x720046e4`. -/
theorem test_xs_int_scales :
    answers (.xsInt 0 50) (withXs 0x2c80308b 0x658012d9 .ready 2) 0 22 = true ∧
    answers (.xsInt (-5) 5) (withXs 0x2c80308b 0x658012d9 .ready 2) 0 0xffffffff = true := by decide

/-- R158: floor toward minus infinity also for `max < min`: `5 + floor(1912620772 * -10 / 2^32) = 5 - 5`. -/
theorem test_xs_int_backward : answers (.xsInt 5 (-5)) (withXs 0x2c80308b 0x658012d9 .ready 2) 0 0 = true := by decide

/-- R159's example; P3 line 24: the zero length is refused before the unit state is looked at. -/
theorem test_xs_pick :
    answers (.xsPick 10) (withXs 0x2c80308b 0x658012d9 .ready 2) 0 4 = true ∧ answers (.xsPick 0) quiet 2 0 = true := by decide

/-- R160's example, and the threshold 0. -/
theorem test_xs_bool :
    answers (.xsBool 0x80000000) (withXs 0x2c80308b 0x658012d9 .ready 2) 0 1 = true ∧
    answers (.xsBool 0x720046e4) (withXs 0x2c80308b 0x658012d9 .ready 2) 0 0 = true ∧
    answers (.xsBool 0) (withXs 0x2c80308b 0x658012d9 .ready 2) 0 0 = true := by decide

/-- R181. -/
theorem test_crc_init : (ran (.crcInit 0) { quiet with crc := 5 }).crc = 0xFFFFFFFF := by decide

/-- R180's and R182's example. -/
theorem test_crc_update : (ran (.crcUpdate 0 0x61) quiet).crc = 0x174841BC := by decide

/-- R183: the byte `0x61`, and no byte. -/
theorem test_crc_read :
    answers (.crcRead 0) { quiet with crc := 0x174841BC } 0 0xE8B7BE43 = true ∧ answers (.crcRead 0) quiet 0 0 = true := by decide

/-- R191; busy while a stream is open (P3 line 7). -/
theorem test_ad_init :
    (ran (.adInit 0) { quiet with ad := { a := 5, b := 6 } }).ad = { a := 1, b := 0 } ∧
    answers (.adInit 0) (withZs 2 2 1 0) 4 0 = true := by decide

/-- R192's example and its passage through the modulus at the 257th byte `0xFF`. -/
theorem test_ad_update :
    (ran (.adUpdate 0 0x61) quiet).ad = { a := 98, b := 98 } ∧
    (ran (.adUpdate 0 0xFF) { quiet with ad := { a := 65281, b := 2048 } }).ad = { a := 15, b := 2063 } := by decide

/-- R193: legal while a stream is open. -/
theorem test_ad_read : answers (.adRead 0) (withZs 2 2 98 98) 0 0x00620062 = true := by decide

/-- R202's examples: lengths 3 and 0. -/
theorem test_zs_begin :
    (ran (.zsBegin 3) quiet).out = [0x78, 0x01, 0x01, 0x03, 0x00, 0xFC, 0xFF] ∧
    (ran (.zsBegin 3) quiet).zs = { isOpen := true, remain := 3, blkrem := 3 } ∧
    (ran (.zsBegin 0) quiet).out = [0x78, 0x01, 0x01, 0x00, 0x00, 0xFF, 0xFF] := by decide

/-- R201's examples: 65535 is the last block, 65536 is not. -/
theorem test_zs_begin_limit :
    (ran (.zsBegin 65535) quiet).out = [0x78, 0x01, 0x01, 0xFF, 0xFF, 0x00, 0x00] ∧
    (ran (.zsBegin 65536) quiet).out = [0x78, 0x01, 0x00, 0xFF, 0xFF, 0x00, 0x00] := by decide

/-- R203's example: one byte of three. -/
theorem test_zs_data_byte :
    (ran (.zsData 0 0x61) (withZs 3 3 1 0)).out = [0x61] ∧
    (ran (.zsData 0 0x61) (withZs 3 3 1 0)).zs = { isOpen := true, remain := 2, blkrem := 2 } ∧
    (ran (.zsData 0 0x61) (withZs 3 3 1 0)).ad = { a := 98, b := 98 } := by decide

/-- R203's example: the 65535th byte of 65536. -/
theorem test_zs_data_next_block :
    (ran (.zsData 0 0x61) (withZs 2 1 1 0)).out = [0x61, 0x01, 0x01, 0x00, 0xFE, 0xFF] ∧
    (ran (.zsData 0 0x61) (withZs 2 1 1 0)).zs = { isOpen := true, remain := 1, blkrem := 1 } := by decide

/-- R204, P3 line 16. -/
theorem test_zs_end :
    (ran (.zsEnd 0) (withZs 0 0 4 6)).out = [0x00, 0x06, 0x00, 0x04] ∧ (ran (.zsEnd 0) (withZs 0 0 4 6)).zs.isOpen = false ∧
    (ran (.zsEnd 0) (withZs 0 0 4 6)).ad = { a := 4, b := 6 } := by decide

/-- R233's examples. -/
theorem test_order_of_checks :
    answers (.zsData 1 0) quiet 2 0 = true ∧ answers (.shaUpdate 0 0) (withSha 0 0x1FFFFFFFFFFFFFFF true) 3 0 = true ∧
    answers (.zsData 0 0) quiet 3 0 = true := by decide

/-- R232: the first error stays on record. -/
theorem test_first_error_wins : (ran (.zsEnd 0) withErr).err = { err := true, code := 3, op := 0x23 } := by decide

/-! The checking values of R120 and R123. -/

/-- R121: the first, a line's last, a line's first and the last constant in reading order. -/
theorem test_round_constants :
    shaK.length = 64 ∧ shaK.getD 0 0 = 0x428a2f98 ∧ shaK.getD 3 0 = 0xe9b5dba5 ∧ shaK.getD 4 0 = 0x3956c25b ∧
    shaK.getD 63 0 = 0xc67178f2 := by decide

theorem test_sha_functions :
    bsig0 0x6a09e667 = 0xce20b47e ∧ bsig1 0x6a09e667 = 0x55b65510 ∧ ssig0 0x6a09e667 = 0xba0cf582 ∧
    ssig1 0x6a09e667 = 0xcfe5da3c ∧ shaCh 0x510e527f 0x9b05688c 0x1f83d9ab = 0x1f85c98c ∧
    shaMaj 0x6a09e667 0xbb67ae85 0x3c6ef372 = 0x3a6fe667 := by decide

theorem test_memory_big_endian :
    (Memory.memWrite [] 60 4 (0x01020304 : BitVec 32)) = [(60, 1), (61, 2), (62, 3), (63, 4)] ∧
    Memory.memRead [(60, 1), (61, 2), (62, 3), (63, 4)] 60 4 = (0x01020304 : BitVec 32) := by decide

/-- R155's alternatives, from `(1, 2)`: the pair after one draw chained, and the old sum. -/
theorem test_alternative_readings :
    advance .chained (1, 2) = (2, 0x00800043) ∧ drawOutput .pre (1, 2) (advance .flat (1, 2)) = 3 := by decide

/-! Witnesses: for every obligation with hypotheses, concrete states and operands that meet them, clause by clause. -/

theorem witness_EncodeDecodeAgree : decode 0x24fffb0005 = .ok (.xsInt (-5) 5) := by decide

theorem witness_IllegalOpcodesAnswerIllop :
    illegalOp (opField 0x0400000000) = true ∧ illegalOp (opField 0xFFFFFFFFFF) = true ∧
    illegalOp (opField 0x0300000000) = false ∧ illegalOp (opField 0x5200000000) = false := by decide

theorem witness_StepRunsDecodedCommand :
    ({ quiet with port := [.command 0x2300000000] } : State).port = .command 0x2300000000 :: [] ∧
    decode 0x2300000000 = .ok (.xsNext 0) := by decide

theorem witness_OperandCheckAnswersErrArg :
    Instr.wellFormed (.sysRdcsr 0 13) = false ∧ Instr.wellFormed (.sysRdcsr 0 12) = true ∧
    Instr.wellFormed (.xsPick 0) = false ∧ Instr.wellFormed (.xsPick 1) = true := by decide

theorem witness_ErrorResponseEffect : withErr.err.err = true := by decide

theorem witness_EveryWordAnswersItsStatus :
    (ran (.xsNext 0) quiet).responses = quiet.responses ++ [responseWord 3 0] ∧ responseStatus (responseWord 3 0) ≠ 0 := by
  decide

theorem witness_ErrorMatrixExact_raises :
    exec (.xsNext 0) quiet = .next (errorAnswer (Instr.opcode (.xsNext 0)) (errorStatus .seq) quiet) := rfl

theorem witness_ErrorMatrixExact_mark : canRaise (.zsEnd 0) .len = true ∧ canRaise (.adInit 0) .busy = true := by decide

theorem witness_SysNopChangesNothing : (1 : BitVec 32) ≠ 0 ∧ (0x80000000 : BitVec 32) ≠ 0 := by decide

theorem witness_SysResetRestoresUnits : (1 : BitVec 32) ≠ 0 ∧ (0x80000000 : BitVec 32) ≠ 0 := by decide

theorem witness_SysRdcsrReadsView :
    (0 : BitVec 4).toNat ≤ 12 ∧ (12 : BitVec 4).toNat ≤ 12 ∧ 12 < (13 : BitVec 4).toNat ∧ (1 : BitVec 28) ≠ 0 := by decide

theorem witness_SysClrerrEmptiesRecord : (1 : BitVec 32) ≠ 0 := by decide

theorem witness_ShaInitRestarts : (1 : BitVec 32) ≠ 0 := by decide

theorem witness_ShaUpdateAbsorbsByte_refused :
    Memory.wf (withSha 0 0 true).sha.buf ∧ (1 : BitVec 24) ≠ 0 ∧ (withSha 0 0 true).sha.done = true ∧
    (withSha 63 0x1FFFFFFFFFFFFFFF false).sha.done = false ∧
    (withSha 63 0x1FFFFFFFFFFFFFFF false).sha.len.toNat = 2 ^ 61 - 1 := by decide

theorem witness_ShaUpdateAbsorbsByte_absorbs :
    Memory.wf (withSha 63 63 false).sha.buf ∧ (withSha 63 63 false).sha.done = false ∧
    (withSha 63 63 false).sha.len.toNat ≠ 2 ^ 61 - 1 ∧ (withSha 63 63 false).sha.fill.toNat = 63 ∧
    (withSha 62 62 false).sha.fill.toNat ≠ 63 ∧ (withSha 62 0x1FFFFFFFFFFFFFFE false).sha.len.toNat ≠ 2 ^ 61 - 1 := by decide

theorem witness_ShaFinalPadsAndFinishes :
    Memory.wf (withSha 55 55 false).sha.buf ∧ (withSha 55 55 false).sha.done = false ∧
    Memory.wf (withSha 56 56 false).sha.buf ∧ (withSha 56 56 false).sha.done = false ∧
    (withSha 0 0 true).sha.done = true ∧ (1 : BitVec 32) ≠ 0 := by decide

/-- The two lengths of the padded message at the boundary of its clause: 64 bytes at 55, 128 at 56. -/
theorem witness_ShaFinalPadsAndFinishes_blocks :
    55 + 1 + paddingZeros 55 + 8 = 64 ∧ 56 + 1 + paddingZeros 56 + 8 = 128 ∧ 63 + 1 + paddingZeros 63 + 8 = 128 := by decide

theorem witness_ShaReadAnswersWord :
    (1 : BitVec 29) ≠ 0 ∧ (withSha 0 0 false).sha.done = false ∧ (withSha 0 0 true).sha.done = true := by decide

theorem witness_RotateMovesBits : 0 < 1 ∧ 1 < 32 ∧ 31 < 32 ∧ 0 < 31 := by decide

theorem witness_ShaConstantsAreRoots : 0 < 64 ∧ 63 < 64 ∧ 0 < 8 ∧ 7 < 8 := by decide

/-- The buffer of R123's worked example: `0x80` and 63 zero bytes. -/
theorem witness_CompressionWrittenOut : ∀ t : Fin 16,
    Memory.read [(0, 0x80)] (BitVec.ofNat 6 (4 * t)) ++ Memory.read [(0, 0x80)] (BitVec.ofNat 6 (4 * t + 1)) ++
      Memory.read [(0, 0x80)] (BitVec.ofNat 6 (4 * t + 2)) ++ Memory.read [(0, 0x80)] (BitVec.ofNat 6 (4 * t + 3))
      = (if t = 0 then 0x80000000 else 0 : Word) := by decide

theorem witness_HashSequenceComputesSha256 : ([] : List Byte).length ≤ 2 ^ 61 - 1 ∧ quiet.sha = .reset := by decide

theorem witness_XsInitLoadsFallbacks : (1 : BitVec 32) ≠ 0 := by decide

theorem witness_XsSeedTakesWord :
    quiet.xs.st ≠ .seeding ∧ (withXs 1 2 .ready 2).xs.st ≠ .seeding ∧ (withXs 7 9 .seeding 0).xs.st = .seeding ∧
    (withXs 7 9 .seeding 0).xs.cnt = 0 ∧ (withXs 7 9 .seeding 1).xs.cnt = 1 ∧ (withXs 7 9 .seeding 2).xs.cnt = 2 := by decide

theorem witness_XsStartWarmsUp :
    (1 : BitVec 32) ≠ 0 ∧ quiet.xs.st ≠ .seeding ∧ (withXs 1 2 .seeding 0).xs.st = .seeding := by decide

theorem witness_XsNextDrawsOnce :
    (1 : BitVec 32) ≠ 0 ∧ (withXs 1 2 .seeding 2).xs.st ≠ .ready ∧ (withXs 1 2 .ready 2).xs.st = .ready := by decide

theorem witness_XsIntScalesDraw :
    quiet.xs.st ≠ .ready ∧ (withXs 1 2 .ready 2).xs.st = .ready ∧
    (-32768 : BitVec 16).toInt < (32767 : BitVec 16).toInt ∧ (7 : BitVec 16).toInt = (7 : BitVec 16).toInt := by decide

theorem witness_XsPickScalesDraw :
    (0 : Word) = 0 ∧ (1 : Word) ≠ 0 ∧ (32767 : Word).toNat ≤ 32767 ∧ quiet.xs.st ≠ .ready ∧ (withXs 1 2 .ready 2).xs.st = .ready := by decide

theorem witness_XsBoolComparesDraw : quiet.xs.st ≠ .ready ∧ (withXs 1 2 .ready 2).xs.st = .ready := by decide

theorem witness_XsBoolComparesDraw_threshold :
    thresholdOf (1 / 2) = some 0x80000000 ∧ thresholdOf 0 = some 0 ∧ (1 : Rat) ≤ 1 ∧ thresholdOf 1 = none := by
  decide +kernel

theorem witness_ProbabilityTakesOneDraw : (-1 : Rat) ≤ 0 ∧ (0 : Rat) ≤ 0 ∧ (withXs 1 2 .ready 2).xs.st = .ready := by
  decide +kernel

/-- U7: threshold 0 for a negative probability, `XS_NEXT` for 1. -/
theorem test_bool_commands : boolCommand (-1) = .xsBool 0 ∧ boolCommand 1 = .xsNext 0 := by decide +kernel

theorem witness_IntIsFloorOfRange : (10 : Rat) < 20 := by decide +kernel

theorem witness_UpdateIsBijective : ((0, 1) : Word × Word) ≠ (0, 0) := by decide

/-- The step into the all-zero state. -/
theorem witness_AllZeroOnlyByFolding :
    exec (.xsSeed 5) (withXs 5 0 .seeding 2) = .next (ran (.xsSeed 5) (withXs 5 0 .seeding 2)) ∧
    ((withXs 5 0 .seeding 2).xs.s0, (withXs 5 0 .seeding 2).xs.s1) ≠ (0, 0) ∧
    ((ran (.xsSeed 5) (withXs 5 0 .seeding 2)).xs.s0, (ran (.xsSeed 5) (withXs 5 0 .seeding 2)).xs.s1) = (0, 0) ∧
    (withXs 5 0 .seeding 2).xs.st = .seeding ∧ (withXs 5 0 .seeding 2).xs.cnt = 2 ∧ (withXs 5 0 .seeding 2).xs.s1 = 0 :=
  ⟨rfl, by decide⟩

theorem witness_AllZeroGeneratorStuck :
    (withXs 0 0 .ready 2).xs.st = .ready ∧ (withXs 0 0 .ready 2).xs.s0 = 0 ∧ (withXs 0 0 .ready 2).xs.s1 = 0 ∧
    (1 : Word) ≠ 0 := by decide

theorem witness_GeneratorPeriodIs168 : 0 < 1 ∧ 1 < 168 ∧ 0 < 167 ∧ 167 < 168 := by decide

theorem witness_OneDrawPerCommand :
    (∀ i ∈ [Instr.xsNext 0, .xsInt 0 50, .xsPick 10, .xsBool 0], isDraw i = true) ∧ (withXs 1 2 .ready 2).xs.st = .ready := by
  decide

theorem witness_SeedWordsOfDigest :
    ([1, 2, 3, 4] : List Byte).length % 4 = 0 ∧ ([] : List Byte).length < 4 ∧ ([1, 2, 3] : List Byte).length < 4 := by decide

theorem witness_CrcInitStarts : (1 : BitVec 32) ≠ 0 := by decide

theorem witness_CrcUpdateIncludesByte : (1 : BitVec 24) ≠ 0 := by decide

theorem witness_CrcReadAnswersInverted : (1 : BitVec 32) ≠ 0 := by decide

theorem witness_AdInitStarts :
    (1 : BitVec 32) ≠ 0 ∧ (withZs 0 0 1 0).zs.isOpen = true ∧ quiet.zs.isOpen = false := by decide

theorem witness_AdUpdateIncludesByte :
    (1 : BitVec 24) ≠ 0 ∧ (withZs 0 0 1 0).zs.isOpen = true ∧ quiet.zs.isOpen = false := by decide

theorem witness_AdReadAnswersSums : (1 : BitVec 32) ≠ 0 := by decide

theorem witness_AdlerSumsInClosedForm : quiet.zs.isOpen = false := by decide

theorem witness_ZsBeginOpensStream : (withZs 0 0 1 0).zs.isOpen = true ∧ quiet.zs.isOpen = false := by decide

theorem witness_ZsDataPassesByte_refused :
    (1 : BitVec 24) ≠ 0 ∧ quiet.zs.isOpen = false ∧ (withZs 0 0 1 0).zs.isOpen = true ∧ (withZs 0 0 1 0).zs.remain = 0 := by
  decide

theorem witness_ZsDataPassesByte_passes :
    (withZs 1 1 1 0).zs.isOpen = true ∧ (withZs 1 1 1 0).zs.remain ≠ 0 ∧ (withZs 1 1 1 0).zs.blkrem ≠ 0 ∧
    ¬((withZs 1 1 1 0).zs.blkrem.toNat = 1 ∧ 1 < (withZs 1 1 1 0).zs.remain.toNat) ∧
    (withZs 2 1 1 0).zs.remain ≠ 0 ∧ (withZs 2 1 1 0).zs.blkrem ≠ 0 ∧
    ((withZs 2 1 1 0).zs.blkrem.toNat = 1 ∧ 1 < (withZs 2 1 1 0).zs.remain.toNat) ∧
    ¬((withZs 2 2 1 0).zs.blkrem.toNat = 1 ∧ 1 < (withZs 2 2 1 0).zs.remain.toNat) := by decide

theorem witness_ZsEndClosesStream :
    (1 : BitVec 32) ≠ 0 ∧ quiet.zs.isOpen = false ∧ (withZs 1 1 1 0).zs.isOpen = true ∧ (withZs 1 1 1 0).zs.remain ≠ 0 ∧
    (withZs 0 0 1 0).zs.remain = 0 := by decide

/-- A program that interleaves other units' commands with a stream of one byte. -/
theorem witness_ZlibStreamEmitted :
    ([0x61] : List Byte).length < 2 ^ 32 ∧ quiet.zs.isOpen = false ∧
    [Instr.crcInit 0, .zsBegin 1, .adInit 0, .zsData 0 0x61, .adRead 0, .zsEnd 0].filter isZs = zsStream [0x61] ∧
    (∀ i ∈ [Instr.crcInit 0, .zsBegin 1, .adInit 0, .zsData 0 0x61, .adRead 0, .zsEnd 0], isReset i = false) ∧
    [Instr.crcInit 0, .zsBegin 1, .adInit 0, .zsData 0 0x61, .adRead 0, .zsEnd 0][5]? = some (.zsEnd 0) ∧
    isZs (.zsEnd 0) = true := by decide

theorem witness_OpenStreamUndisturbed :
    (withZs 2 2 98 98).zs.isOpen = true ∧ isZs (.adUpdate 0 7) = false ∧ isReset (.adUpdate 0 7) = false ∧
    exec (.adUpdate 0 7) (withZs 2 2 98 98) = .next (ran (.adUpdate 0 7) (withZs 2 2 98 98)) :=
  ⟨rfl, rfl, rfl, rfl⟩

theorem witness_UnitsChangedByOwnCommands :
    isReset (.crcUpdate 0 0x61) = false ∧
    exec (.crcUpdate 0 0x61) quiet = .next (ran (.crcUpdate 0 0x61) quiet) ∧
    unitOf (.crcUpdate 0 0x61) = 3 ∧ unitOf (.sysNop 0) = 0 ∧ unitOf (.zsEnd 0) = 5 := ⟨rfl, rfl, rfl, rfl, rfl⟩

theorem witness_OutIsAppendOnly :
    step { quiet with port := [.command 0x5000000003] } = .next (ran (.zsBegin 3) quiet) := rfl

theorem witness_PortsAreNeverRead :
    ({ withXs 1 2 .ready 2 with out := [0x78], port := [.command 0] } : State).xs = (withXs 1 2 .ready 2).xs ∧
    exec (.xsNext 0) (withXs 1 2 .ready 2) = .next (ran (.xsNext 0) (withXs 1 2 .ready 2)) := ⟨rfl, rfl⟩

theorem witness_CommandsRunInOrder :
    [Instr.crcInit 0, .crcRead 0] = [Instr.crcInit 0] ++ [.crcRead 0] ∧
    runProgram [.crcInit 0] quiet = .next (ran (.crcInit 0) quiet) := ⟨rfl, rfl⟩

theorem witness_HardResetResetsUnits :
    ({ quiet with port := [.hardReset (some 0x5000000003) [0x0000000000]] } : State).port
      = .hardReset (some 0x5000000003) [0x0000000000] :: [] ∧
    ({ quiet with port := [.hardReset none []] } : State).port = .hardReset none [] :: [] := by decide

/-- A state that meets the invariants and is not the reset state, and a step from it. -/
theorem witness_StepKeepsInvariant_state :
    State.Inv { withZs 2 2 98 98 with xs := { s0 := 1, s1 := 2, st := .ready, cnt := 2 } } where
  buffer := by decide
  absorbFill := by decide
  doneFill := by decide
  adlerA := by decide
  adlerB := by decide
  idleCounts := by decide
  openBound := by decide
  openZero := by decide
  unseeded := fun h => absurd h (by decide)
  noError := by decide
  errorCode := by decide

theorem witness_StepKeepsInvariant_step :
    step { withZs 2 2 98 98 with port := [.command 0x5100000001] } = .next (ran (.zsData 0 1) (withZs 2 2 98 98)) := rfl

theorem witness_StepAlwaysCompletes : quiet.port = [] := rfl

end Sys2Proof.Tests
end

/-! PROOFS. The obligations of 00_scope.md: `rotr32` is the rotation of the bits (R8), and a command reads nothing of the ports
(R3, R63). -/

namespace Sys2Proof.Machine

/-! The rotation of R8. -/

/-- A bit that does not leave at the bottom comes from the shift right. -/
theorem getLsbD_rotr32_of_lt (v : Word) {n i : Nat} (h : i + n < 32) : (rotr32 v n).getLsbD i = v.getLsbD (i + n) := by
  have belowShiftLeft : i < 32 - n := by omega
  simp [rotr32, belowShiftLeft, Nat.add_comm]

/-- A bit that leaves at the bottom enters at the top, by the shift left. -/
theorem getLsbD_rotr32_of_ge (v : Word) {n i : Nat} (hi : i < 32) (h : 32 ≤ i + n) :
    (rotr32 v n).getLsbD i = v.getLsbD (i - (32 - n)) := by
  have inShiftLeft : ¬ i < 32 - n := by omega
  have shiftedOut : v.getLsbD (n + i) = false := BitVec.getLsbD_of_ge v (n + i) (by omega)
  simp only [rotr32, BitVec.getLsbD_xor, BitVec.getLsbD_ushiftRight, BitVec.getLsbD_shiftLeft, shiftedOut, hi, inShiftLeft,
    decide_true, decide_false, Bool.not_false, Bool.true_and, Bool.false_xor]

/-- Settles O20: the bits below `32 - n` come from the shift right, the others from the shift left. -/
theorem rotateMovesBits : Obligations.RotateMovesBits := by
  intro v n i _ hn hi
  by_cases h : i + n < 32
  · rw [getLsbD_rotr32_of_lt v h, Nat.mod_eq_of_lt h]
  · have wrapped : (i + n) % 32 = i - (32 - n) := by omega
    rw [getLsbD_rotr32_of_ge v hi (by omega), wrapped]

/-! A command at other ports. The units' state is what a command works on; the ports are what it only appends to. -/

/-- The units of `s` (R22 to R27) with the ports, and the model's own counter, of `p` (R60 to R63). -/
def State.atPorts (s p : State) : State :=
  { s with port := p.port, responses := p.responses, out := p.out, cutCount := p.cutCount }

@[simp] theorem atPorts_sha (s p : State) : (s.atPorts p).sha = s.sha := rfl
@[simp] theorem atPorts_xs (s p : State) : (s.atPorts p).xs = s.xs := rfl
@[simp] theorem atPorts_crc (s p : State) : (s.atPorts p).crc = s.crc := rfl
@[simp] theorem atPorts_ad (s p : State) : (s.atPorts p).ad = s.ad := rfl
@[simp] theorem atPorts_zs (s p : State) : (s.atPorts p).zs = s.zs := rfl
@[simp] theorem atPorts_err (s p : State) : (s.atPorts p).err = s.err := rfl
@[simp] theorem atPorts_responses (s p : State) : (s.atPorts p).responses = p.responses := rfl
@[simp] theorem atPorts_out (s p : State) : (s.atPorts p).out = p.out := rfl

@[simp] theorem atPorts_self (s : State) : s.atPorts s = s := rfl

/-- Two states with the same units differ only at the ports. -/
theorem atPorts_eq {s s' : State} (sha : s'.sha = s.sha) (xs : s'.xs = s.xs) (crc : s'.crc = s.crc) (ad : s'.ad = s.ad)
    (zs : s'.zs = s.zs) (err : s'.err = s.err) : s.atPorts s' = s' := by
  cases s'; simp_all [State.atPorts]

theorem emit_nil (s : State) : emit [] s = s := by simp [emit]

/-- A response changes the response port only. -/
theorem respond_atPorts (st : BitVec 4) (res : Word) (s p : State) :
    respond st res (s.atPorts p) = (respond st res s).atPorts (respond st res p) := rfl

/-- An error response is the same at all ports (R232). -/
theorem raiseErr_atPorts (op : BitVec 8) (code : ErrorCode) (s p : State) :
    raiseErr op code (s.atPorts p) = (raiseErr op code s).atPorts (respond (errorStatus code) 0 p) := rfl

/-- The bytes an opening stream emits depend on its length alone (R202). -/
theorem openStream_atPorts (length : Word) (s p : State) :
    openStream length (s.atPorts p) = (openStream length s).atPorts (emit ([zsCmf, zsFlg] ++ blockHeader length) p) := rfl

/-- The bytes a payload byte emits depend on the ZS unit alone (R203). -/
theorem passByte_atPorts (byte : Byte) (s p : State) :
    passByte byte (s.atPorts p) = (passByte byte s).atPorts (emit (dataBytes byte s.zs) p) := rfl

/-- The bytes a closing stream emits depend on the AD unit alone (R204). -/
theorem closeStream_atPorts (s p : State) :
    closeStream (s.atPorts p) = (closeStream s).atPorts (emit (adlerTrailer s.ad) p) := rfl

/-- `run p`, the outcome at the ports of `p`, is the same at all ports: the units come out as those of `t`, and the same
response and bytes are appended to whatever stands there. -/
def SameAtAllPorts (run : State → Host.Outcome State Fault Refusal) (t : State) : Prop :=
  ∃ st res bytes, ∀ p, run p = .next (t.atPorts (respond st res (emit bytes p)))

/-- A command whose checks and result are the same at all ports, and whose work appends the same bytes at all ports. -/
theorem runCommand_atPorts {op : BitVec 8} {checks : List (Bool × ErrorCode)} {res : Word} {s t : State}
    (work : State → State) (bytes : List Byte) (hwork : ∀ p, work (s.atPorts p) = (work s).atPorts (emit bytes p))
    (h : runCommand op checks (work s) res s = .next t) :
    SameAtAllPorts (fun p => runCommand op checks (work (s.atPorts p)) res (s.atPorts p)) t := by
  obtain ⟨code, failed, rfl⟩ | ⟨passed, rfl⟩ := runCommand_cases h
  · exact ⟨errorStatus code, 0, [], fun p => by simp only [runCommand_error failed, raiseErr_atPorts, emit_nil]⟩
  · exact ⟨statusOk, res, bytes, fun p => by simp only [runCommand_ok passed, hwork, respond_atPorts]⟩

/-- A command that emits nothing. -/
theorem runCommand_silent_atPorts {op : BitVec 8} {checks : List (Bool × ErrorCode)} {res : Word} {s t : State}
    (work : State → State) (hwork : ∀ p, work (s.atPorts p) = (work s).atPorts p)
    (h : runCommand op checks (work s) res s = .next t) :
    SameAtAllPorts (fun p => runCommand op checks (work (s.atPorts p)) res (s.atPorts p)) t :=
  runCommand_atPorts work [] (fun p => by rw [hwork, emit_nil]) h

/-- Every command does the same at all ports (R3, R63): only the ZS unit's commands emit, each from the units' state alone. -/
theorem exec_atPorts {i : Instr} {s t : State} (h : exec i s = .next t) : SameAtAllPorts (fun p => exec i (s.atPorts p)) t := by
  cases i with
  | sysNop r => exact (runCommand_silent_atPorts id (fun _ => rfl) h :)
  | sysReset r => exact (runCommand_silent_atPorts resetUnits (fun _ => rfl) h :)
  | sysRdcsr r index => exact (runCommand_silent_atPorts id (fun _ => rfl) h :)
  | sysClrerr r => exact (runCommand_silent_atPorts clearErr (fun _ => rfl) h :)
  | shaInit r => exact (runCommand_silent_atPorts (fun s => { s with sha := .reset }) (fun _ => rfl) h :)
  | shaUpdate r byte =>
    exact (runCommand_silent_atPorts (fun s => { s with sha := absorbByte byte s.sha }) (fun _ => rfl) h :)
  | shaFinal r => exact (runCommand_silent_atPorts (fun s => { s with sha := finalize s.sha }) (fun _ => rfl) h :)
  | shaRead r index => exact (runCommand_silent_atPorts id (fun _ => rfl) h :)
  | xsInit r => exact (runCommand_silent_atPorts (fun s => { s with xs := xsBeginSeeding s.xs }) (fun _ => rfl) h :)
  | xsSeed word => exact (runCommand_silent_atPorts (fun s => { s with xs := xsTakeSeed word s.xs }) (fun _ => rfl) h :)
  | xsStart r => exact (runCommand_silent_atPorts (fun s => { s with xs := xsWarmUp s.xs }) (fun _ => rfl) h :)
  | xsNext r => exact (runCommand_silent_atPorts (fun s => { s with xs := drawState s.xs }) (fun _ => rfl) h :)
  | xsInt min max => exact (runCommand_silent_atPorts (fun s => { s with xs := drawState s.xs }) (fun _ => rfl) h :)
  | xsPick length => exact (runCommand_silent_atPorts (fun s => { s with xs := drawState s.xs }) (fun _ => rfl) h :)
  | xsBool threshold => exact (runCommand_silent_atPorts (fun s => { s with xs := drawState s.xs }) (fun _ => rfl) h :)
  | crcInit r => exact (runCommand_silent_atPorts (fun s => { s with crc := crcStart }) (fun _ => rfl) h :)
  | crcUpdate r byte => exact (runCommand_silent_atPorts (fun s => { s with crc := crcStep s.crc byte }) (fun _ => rfl) h :)
  | crcRead r => exact (runCommand_silent_atPorts id (fun _ => rfl) h :)
  | adInit r => exact (runCommand_silent_atPorts (fun s => { s with ad := .reset }) (fun _ => rfl) h :)
  | adUpdate r byte => exact (runCommand_silent_atPorts (fun s => { s with ad := adlerStep byte s.ad }) (fun _ => rfl) h :)
  | adRead r => exact (runCommand_silent_atPorts id (fun _ => rfl) h :)
  | zsBegin length => exact (runCommand_atPorts (openStream length) _ (openStream_atPorts length s) h :)
  | zsData r byte => exact (runCommand_atPorts (passByte byte) _ (passByte_atPorts byte s) h :)
  | zsEnd r => exact (runCommand_atPorts closeStream _ (closeStream_atPorts s) h :)

/-- Settles O51: a state with the same units is the first one at other ports, where the command does the same. -/
theorem portsAreNeverRead : Obligations.PortsAreNeverRead := by
  intro i s s' t sha xs crc ad zs err h
  obtain ⟨st, res, bytes, same⟩ := exec_atPorts h
  have atOwn : t.atPorts (respond st res (emit bytes s)) = t := by
    simpa only [atPorts_self, h, Host.Outcome.next.injEq, eq_comm] using same s
  have atOther : exec i s' = .next (t.atPorts (respond st res (emit bytes s'))) := by
    simpa only [atPorts_eq sha xs crc ad zs err] using same s'
  have responses : t.responses = s.responses ++ [responseWord st res] := by
    rw [← atOwn, atPorts_responses, respond_responses, emit_responses]
  have out : t.out = s.out ++ bytes := by rw [← atOwn, atPorts_out, respond_out, emit_out]
  exact ⟨_, responseWord st res, bytes, atOther, atPorts_sha .., atPorts_xs .., atPorts_crc .., atPorts_ad ..,
    atPorts_zs .., atPorts_err .., responses, atPorts_responses .., out, atPorts_out ..⟩

end Sys2Proof.Machine

/-! PROOFS. The obligations of 10_state.md: the state after reset (R55), the invariants of R30, unit by unit, and that every
step keeps them, which unit a command can change (R20), and the Adler sums in closed form (R25). -/

namespace Sys2Proof.Machine

/-! The invariants of R30, one predicate for each unit that has any. The ports and the CRC unit have none. -/

/-- R30 item 1, and the canonical form of the buffer (log 12). -/
structure ShaUnit.Inv (u : ShaUnit) : Prop where
  buffer : Memory.wf u.buf
  absorbFill : u.done = false → u.fill.toNat = u.len.toNat % 64
  doneFill : u.done = true → u.fill = 0

/-- R30 items 5 and 6. -/
def XsUnit.Inv (u : XsUnit) : Prop := u.st = .unseeded → u.s0 = xsFallback0 ∧ u.s1 = xsFallback1 ∧ u.cnt = 0

/-- R30 item 2. -/
structure AdUnit.Inv (u : AdUnit) : Prop where
  a : u.a.toNat ≤ 65520
  b : u.b.toNat ≤ 65520

/-- R30 items 3 and 4. The two counters agree also in an idle unit, where both are 0. -/
structure ZsUnit.Inv (u : ZsUnit) : Prop where
  idle : u.isOpen = false → u.remain = 0
  bound : u.blkrem.toNat ≤ u.remain.toNat
  zero : u.blkrem = 0 ↔ u.remain = 0

/-- R30 item 7. -/
structure ErrorRecord.Inv (e : ErrorRecord) : Prop where
  noError : e.err = false → e.code = 0 ∧ e.op = 0
  errorCode : e.err = true → 1 ≤ e.code.toNat ∧ e.code.toNat ≤ 5

/-- R30 speaks of the units one by one. -/
theorem inv_iff_units {s : State} : s.Inv ↔ s.sha.Inv ∧ s.xs.Inv ∧ s.ad.Inv ∧ s.zs.Inv ∧ s.err.Inv := by
  constructor
  · intro inv
    have zs : s.zs.Inv := by
      cases isOpen : s.zs.isOpen with
      | false =>
        obtain ⟨remain, blkrem⟩ := inv.idleCounts isOpen
        exact ⟨fun _ => remain, by simp [remain, blkrem], by simp [remain, blkrem]⟩
      | true => exact ⟨by simp [isOpen], inv.openBound isOpen, inv.openZero isOpen⟩
    exact ⟨⟨inv.buffer, inv.absorbFill, inv.doneFill⟩, inv.unseeded, ⟨inv.adlerA, inv.adlerB⟩, zs,
      ⟨inv.noError, inv.errorCode⟩⟩
  · rintro ⟨sha, xs, ad, zs, err⟩
    exact {
      buffer := sha.buffer, absorbFill := sha.absorbFill, doneFill := sha.doneFill
      adlerA := ad.a, adlerB := ad.b
      idleCounts := fun idle => ⟨zs.idle idle, zs.zero.2 (zs.idle idle)⟩
      openBound := fun _ => zs.bound, openZero := fun _ => zs.zero
      unseeded := xs
      noError := err.noError, errorCode := err.errorCode }

theorem inv_of_units {s : State} (sha : s.sha.Inv) (xs : s.xs.Inv) (ad : s.ad.Inv) (zs : s.zs.Inv) (err : s.err.Inv) :
    s.Inv := inv_iff_units.2 ⟨sha, xs, ad, zs, err⟩

/-! The units after reset (R55). -/

theorem ShaUnit.inv_reset : ShaUnit.reset.Inv := ⟨by decide, fun _ => rfl, fun _ => rfl⟩

theorem XsUnit.inv_reset : XsUnit.reset.Inv := fun _ => ⟨rfl, rfl, rfl⟩

theorem AdUnit.inv_reset : AdUnit.reset.Inv := ⟨by decide, by decide⟩

theorem ZsUnit.inv_reset : ZsUnit.reset.Inv := ⟨fun _ => rfl, by decide, by decide⟩

theorem ErrorRecord.inv_reset : ErrorRecord.reset.Inv := ⟨fun _ => ⟨rfl, rfl⟩, by decide⟩

/-- Reset units meet the invariants, whatever stands at the ports. -/
theorem inv_of_reset {s : State} (sha : s.sha = .reset) (xs : s.xs = .reset) (ad : s.ad = .reset) (zs : s.zs = .reset)
    (err : s.err = .reset) : s.Inv :=
  inv_of_units (sha ▸ ShaUnit.inv_reset) (xs ▸ XsUnit.inv_reset) (ad ▸ AdUnit.inv_reset) (zs ▸ ZsUnit.inv_reset)
    (err ▸ ErrorRecord.inv_reset)

theorem inv_resetUnits (s : State) : (resetUnits s).Inv := inv_of_reset rfl rfl rfl rfl rfl

/-- Settles O13: the table of R55 row by row; the two OPEN rows are the limits R7 sets. -/
theorem resetValues : Obligations.ResetValues :=
  ⟨rfl, Memory.read_empty, rfl, rfl, rfl, rfl, rfl, xsFallback0_ne_zero, xsFallback1_ne.1, xsFallback1_ne.2.symm,
    rfl, rfl, rfl, rfl, rfl, rfl, rfl, rfl, rfl, rfl, rfl⟩

/-- Settles O54. -/
theorem resetMeetsInvariant : Obligations.ResetMeetsInvariant := inv_of_reset rfl rfl rfl rfl rfl

/-! What the commands do to a unit keeps its invariant. -/

/-- Fill and length go up together; the length wraps at a multiple of 64 (R125). -/
theorem ShaUnit.Inv.absorbByte {u : ShaUnit} (inv : u.Inv) (absorbing : u.done = false) (byte : Byte) :
    (absorbByte byte u).Inv where
  buffer := by
    rw [absorbByte_buf]
    exact Memory.wf_write inv.buffer u.fill byte
  absorbFill _ := by
    have fill := inv.absorbFill absorbing
    simp only [absorbByte_fill, absorbByte_len, BitVec.toNat_add, BitVec.reduceToNat]
    omega
  doneFill finished := by simp [absorbing] at finished

/-- A finished message leaves an empty buffer (R126 step 7). -/
theorem ShaUnit.Inv.finalize {u : ShaUnit} (inv : u.Inv) : (finalize u).Inv where
  buffer := finalize_wf inv.buffer
  absorbFill absorbing := by simp at absorbing
  doneFill _ := finalize_fill u

/-- Items 5 and 6 of R30 bind an unseeded generator only. -/
theorem XsUnit.inv_of_seeded {u : XsUnit} (seeded : u.st ≠ .unseeded) : u.Inv := fun unseeded => absurd unseeded seeded

/-- A draw keeps the unit state (R155). -/
theorem XsUnit.inv_drawState {u : XsUnit} (ready : u.st = .ready) : (drawState u).Inv := inv_of_seeded (by simp [ready])

/-- A seed word keeps the unit state (R152). -/
theorem XsUnit.inv_takeSeed {u : XsUnit} (seeding : u.st = .seeding) (word : Word) : (xsTakeSeed word u).Inv :=
  inv_of_seeded (by simp [seeding])

/-- Both sums are remainders modulo 65521, whatever they were (R190). -/
theorem AdUnit.inv_adlerStep (byte : Byte) (u : AdUnit) : (adlerStep byte u).Inv :=
  ⟨by rw [adlerStep_a]; omega, by rw [adlerStep_b]; omega⟩

/-- A stored block's length is 0 for no payload only, and never exceeds it (R201). -/
theorem ZsUnit.inv_of_blockLen {u : ZsUnit} (isOpen : u.isOpen = true) (blkrem : u.blkrem = blockLen u.remain) : u.Inv where
  idle idle := by simp [isOpen] at idle
  bound := by rw [blkrem, blockLen_toNat]; omega
  zero := by rw [blkrem, ← BitVec.toNat_inj, ← BitVec.toNat_inj, blockLen_toNat]; simp only [BitVec.reduceToNat]; omega

/-- All that counting a payload byte can do: a new block starts, or this one goes on (R203 steps 6 and 7). -/
theorem countByte_cases (u : ZsUnit) :
    (u.blkrem - 1 = 0 ∧ u.remain - 1 ≠ 0 ∧
      countByte u = { u with remain := u.remain - 1, blkrem := blockLen (u.remain - 1) }) ∨
    ((u.blkrem - 1 = 0 → u.remain - 1 = 0) ∧ countByte u = { u with remain := u.remain - 1, blkrem := u.blkrem - 1 }) := by
  by_cases h : u.blkrem - 1 = 0 ∧ u.remain - 1 ≠ 0
  · exact .inl ⟨h.1, h.2, by rw [countByte, if_pos h]⟩
  · exact .inr ⟨fun last => by_contra fun more => h ⟨last, more⟩, by rw [countByte, if_neg h]⟩

/-- While bytes remain neither counter is 0, so both go down; a new block starts before `zs_blkrem` would be 0 too early. -/
theorem ZsUnit.Inv.countByte {u : ZsUnit} (inv : u.Inv) (isOpen : u.isOpen = true) (remain : u.remain ≠ 0) :
    (countByte u).Inv := by
  have blkrem : u.blkrem ≠ 0 := fun none => remain (inv.zero.1 none)
  have bound := inv.bound
  obtain ⟨-, -, newBlock⟩ | ⟨notEarly, sameBlock⟩ := countByte_cases u
  · exact newBlock ▸ inv_of_blockLen isOpen rfl
  · rw [sameBlock]
    exact ⟨fun idle => absurd idle (by simp [isOpen]), by bv_omega, notEarly, by bv_omega⟩

/-- A stream closes only with no byte owed (R204). -/
theorem ZsUnit.Inv.close {u : ZsUnit} (inv : u.Inv) (remain : u.remain = 0) : ({ u with isOpen := false } : ZsUnit).Inv :=
  ⟨fun _ => remain, inv.bound, inv.zero⟩

/-- A recorded error has one of the five codes (R231, R232). -/
theorem ErrorRecord.Inv.recordError {e : ErrorRecord} (inv : e.Inv) (op : BitVec 8) (code : ErrorCode) :
    (recordError op code e).Inv := by
  cases pending : e.err with
  | false =>
    rw [recordError_first op code pending]
    exact ⟨by simp, fun _ => errorStatus_range code⟩
  | true => rwa [recordError_later op code pending]

/-! A command, a host event and a step keep the invariants. -/

theorem State.Inv.respond {s : State} (inv : s.Inv) (st : BitVec 4) (res : Word) : (respond st res s).Inv :=
  inv_iff_units.2 (inv_iff_units.1 inv :)

theorem State.Inv.raiseErr {s : State} (inv : s.Inv) (op : BitVec 8) (code : ErrorCode) : (raiseErr op code s).Inv := by
  obtain ⟨sha, xs, ad, zs, err⟩ := inv_iff_units.1 inv
  exact inv_of_units sha xs ad zs (err.recordError op code)

/-- A command keeps the invariants if its work does whenever its checks pass. -/
theorem runCommand_keeps_inv {op : BitVec 8} {checks : List (Bool × ErrorCode)} {done : State} {res : Word} {s t : State}
    (inv : s.Inv) (h : runCommand op checks done res s = .next t) (work : firstError checks = none → done.Inv) : t.Inv := by
  obtain ⟨code, -, rfl⟩ | ⟨passed, rfl⟩ := runCommand_cases h
  · exact inv.raiseErr op code
  · exact (work passed).respond statusOk res

/-- Every command keeps the invariants: its work touches one unit, two for the ZS unit, and the checks that passed say in
which state that unit is. -/
theorem exec_keeps_inv {i : Instr} {s t : State} (inv : s.Inv) (h : exec i s = .next t) : t.Inv := by
  obtain ⟨sha, xs, ad, zs, err⟩ := inv_iff_units.1 inv
  cases i with
  | sysNop | sysRdcsr | shaRead | crcRead | adRead => exact runCommand_keeps_inv inv h fun _ => inv
  | sysReset => exact runCommand_keeps_inv inv h fun _ => inv_resetUnits s
  | sysClrerr => exact runCommand_keeps_inv inv h fun _ => inv_of_units sha xs ad zs ErrorRecord.inv_reset
  | shaInit => exact runCommand_keeps_inv inv h fun _ => inv_of_units ShaUnit.inv_reset xs ad zs err
  | shaUpdate r byte =>
    refine runCommand_keeps_inv inv h fun passed => ?_
    have absorbing : s.sha.done = false := firstError_eq_none.1 passed (s.sha.done, .seq) (by simp)
    exact inv_of_units (sha.absorbByte absorbing byte) xs ad zs err
  | shaFinal => exact runCommand_keeps_inv inv h fun _ => inv_of_units sha.finalize xs ad zs err
  | xsInit => exact runCommand_keeps_inv inv h fun _ => inv_of_units sha (XsUnit.inv_of_seeded nofun) ad zs err
  | xsSeed word =>
    refine runCommand_keeps_inv inv h fun passed => ?_
    have seeding : s.xs.st = .seeding := by simpa using passed
    exact inv_of_units sha (XsUnit.inv_takeSeed seeding word) ad zs err
  | xsStart => exact runCommand_keeps_inv inv h fun _ => inv_of_units sha (XsUnit.inv_of_seeded nofun) ad zs err
  | xsNext | xsInt | xsPick | xsBool =>
    refine runCommand_keeps_inv inv h fun passed => ?_
    have ready : s.xs.st = .ready := by
      simpa using firstError_eq_none.1 passed (s.xs.st != .ready, .seq) (by simp)
    exact inv_of_units sha (XsUnit.inv_drawState ready) ad zs err
  | crcInit | crcUpdate => exact runCommand_keeps_inv inv h fun _ => inv_of_units sha xs ad zs err
  | adInit => exact runCommand_keeps_inv inv h fun _ => inv_of_units sha xs AdUnit.inv_reset zs err
  | adUpdate r byte =>
    exact runCommand_keeps_inv inv h fun _ => inv_of_units sha xs (AdUnit.inv_adlerStep byte s.ad) zs err
  | zsBegin length =>
    exact runCommand_keeps_inv inv h fun _ => inv_of_units sha xs AdUnit.inv_reset (ZsUnit.inv_of_blockLen rfl rfl) err
  | zsData r byte =>
    refine runCommand_keeps_inv inv h fun passed => ?_
    obtain ⟨-, isOpen, remain⟩ : reservedSet r = false ∧ s.zs.isOpen = true ∧ s.zs.remain ≠ 0 := by
      simpa using firstError_eq_none.1 passed
    exact inv_of_units sha xs (AdUnit.inv_adlerStep byte s.ad) (zs.countByte isOpen remain) err
  | zsEnd r =>
    refine runCommand_keeps_inv inv h fun passed => ?_
    have remain : s.zs.remain = 0 := by
      simpa using firstError_eq_none.1 passed (s.zs.remain != 0, .len) (by simp)
    exact inv_of_units sha xs ad (zs.close remain) err

/-- A command word keeps the invariants, one that decodes to no command too. -/
theorem runWord_keeps_inv {cw : CommandWord} {s t : State} (inv : s.Inv) (h : runWord cw s = .next t) : t.Inv := by
  obtain ⟨i, -, run⟩ | ⟨op, -, rfl⟩ := runWord_cases h
  · exact exec_keeps_inv inv run
  · exact inv.raiseErr op .illop

/-- A command cut short leaves reset units (R260). -/
theorem inv_cutShort (s t : State) : (cutShort s t).Inv := by
  obtain cut | ⟨k, cut⟩ := cutShort_cases s t
  all_goals
    rw [cut]
    exact inv_of_reset rfl rfl rfl rfl rfl

theorem takeEvent_keeps_inv {e : HostEvent} {s t : State} (inv : s.Inv) (h : takeEvent e s = .next t) : t.Inv := by
  obtain ⟨cw, -, run⟩ | ⟨during, -, rfl⟩ | ⟨cw, during, u, -, -, rfl⟩ := takeEvent_cases h
  · exact runWord_keeps_inv inv run
  · exact inv_resetUnits s
  · exact inv_cutShort s u

/-- Settles O55: a step idles or takes a host event, and taking it off the port touches no unit. -/
theorem stepKeepsInvariant : Obligations.StepKeepsInvariant := by
  intro s t inv h
  obtain ⟨-, rfl⟩ | ⟨e, rest, -, taken⟩ := step_cases h
  · exact inv
  · exact takeEvent_keeps_inv (s := { s with port := rest }) (inv_iff_units.2 (inv_iff_units.1 inv :)) taken

/-! The unit a command belongs to, and what it leaves (R20). -/

/-- From `s` to `t` nothing changed but the unit of number `unit` (R2), the AD unit and `OUT` for the ZS unit, the error record
and the responses. -/
structure ChangesOnly (unit : BitVec 4) (s t : State) : Prop where
  sha : unit ≠ 1 → t.sha = s.sha
  xs : unit ≠ 2 → t.xs = s.xs
  crc : unit ≠ 3 → t.crc = s.crc
  ad : unit ≠ 4 → unit ≠ 5 → t.ad = s.ad
  zs : unit ≠ 5 → t.zs = s.zs
  out : unit ≠ 5 → t.out = s.out
  port : t.port = s.port
  cutCount : t.cutCount = s.cutCount

theorem ChangesOnly.refl (unit : BitVec 4) (s : State) : ChangesOnly unit s s := by constructor <;> simp

theorem ChangesOnly.clearErr (unit : BitVec 4) (s : State) : ChangesOnly unit s (clearErr s) := by constructor <;> simp

theorem ChangesOnly.raiseErr (unit : BitVec 4) (op : BitVec 8) (code : ErrorCode) (s : State) :
    ChangesOnly unit s (raiseErr op code s) := by constructor <;> simp

theorem ChangesOnly.withSha (u : ShaUnit) (s : State) : ChangesOnly 1 s { s with sha := u } := by constructor <;> simp

theorem ChangesOnly.withXs (u : XsUnit) (s : State) : ChangesOnly 2 s { s with xs := u } := by constructor <;> simp

theorem ChangesOnly.withCrc (crc : Word) (s : State) : ChangesOnly 3 s { s with crc := crc } := by constructor <;> simp

theorem ChangesOnly.withAd (u : AdUnit) (s : State) : ChangesOnly 4 s { s with ad := u } := by constructor <;> simp

theorem ChangesOnly.withStream (zs : ZsUnit) (ad : AdUnit) (bytes : List Byte) (s : State) :
    ChangesOnly 5 s (emit bytes { s with zs := zs, ad := ad }) := by constructor <;> simp

theorem ChangesOnly.respond {unit : BitVec 4} {s t : State} (h : ChangesOnly unit s t) (st : BitVec 4) (res : Word) :
    ChangesOnly unit s (respond st res t) := { h with }

/-- A command changes what its work changes, or nothing but the error record. -/
theorem runCommand_changesOnly {op : BitVec 8} {checks : List (Bool × ErrorCode)} {done : State} {res : Word} {s t : State}
    {unit : BitVec 4} (h : runCommand op checks done res s = .next t)
    (work : firstError checks = none → ChangesOnly unit s done) : ChangesOnly unit s t := by
  obtain ⟨code, -, rfl⟩ | ⟨passed, rfl⟩ := runCommand_cases h
  · exact .raiseErr unit op code s
  · exact (work passed).respond statusOk res

/-- The unit number of a command by the table of the units (R2). -/
def unitNumber : Instr → BitVec 4
  | .sysNop _ | .sysReset _ | .sysRdcsr _ _ | .sysClrerr _ => 0
  | .shaInit _ | .shaUpdate _ _ | .shaFinal _ | .shaRead _ _ => 1
  | .xsInit _ | .xsSeed _ | .xsStart _ | .xsNext _ | .xsInt _ _ | .xsPick _ | .xsBool _ => 2
  | .crcInit _ | .crcUpdate _ _ | .crcRead _ => 3
  | .adInit _ | .adUpdate _ _ | .adRead _ => 4
  | .zsBegin _ | .zsData _ _ | .zsEnd _ => 5

/-- The table agrees with the opcodes' bits 7:4 (R90). -/
theorem unitOf_eq_unitNumber (i : Instr) : unitOf i = unitNumber i := by
  rw [unitOf]
  cases i <;> rw [Instr.opcode] <;> rfl

/-- Every command but a passing `SYS_RESET` works on its own unit. -/
theorem exec_changesOnly {i : Instr} {s t : State} (noReset : isReset i = false) (h : exec i s = .next t) :
    ChangesOnly (unitOf i) s t := by
  rw [unitOf_eq_unitNumber]
  cases i with
  | sysNop | sysRdcsr | shaRead | crcRead | adRead => exact runCommand_changesOnly h fun _ => .refl _ s
  | sysReset r =>
    have refused : r ≠ 0 := by simpa [isReset] using noReset
    exact runCommand_changesOnly h fun passed => absurd passed (by simp [reservedSet_eq_true.2 refused])
  | sysClrerr => exact runCommand_changesOnly h fun _ => .clearErr _ s
  | shaInit | shaUpdate | shaFinal => exact runCommand_changesOnly h fun _ => .withSha _ s
  | xsInit | xsSeed | xsStart | xsNext | xsInt | xsPick | xsBool => exact runCommand_changesOnly h fun _ => .withXs _ s
  | crcInit | crcUpdate => exact runCommand_changesOnly h fun _ => .withCrc _ s
  | adInit | adUpdate => exact runCommand_changesOnly h fun _ => .withAd _ s
  | zsBegin | zsData | zsEnd => exact runCommand_changesOnly h fun _ => .withStream _ _ _ s

/-- Settles O49: the frame of the command's unit, field by field. -/
theorem unitsChangedByOwnCommands : Obligations.UnitsChangedByOwnCommands := by
  intro i s t noReset h
  have frame := exec_changesOnly noReset h
  exact ⟨frame.sha, frame.xs, frame.crc, frame.ad, fun other => ⟨frame.zs other, frame.out other⟩, frame.port, frame.cutCount⟩

/-! The Adler sums of a byte list (R25, R190 to R192). -/

theorem exec_adInit_idle {s : State} (idle : s.zs.isOpen = false) :
    exec (.adInit 0) s = .next (okAnswer 0 { s with ad := .reset }) := runCommand_ok (by simp [reservedSet, idle]) _ _ _

theorem exec_adUpdate_idle {s : State} (idle : s.zs.isOpen = false) (byte : Byte) :
    exec (.adUpdate 0 byte) s = .next (okAnswer 0 { s with ad := adlerStep byte s.ad }) :=
  runCommand_ok (by simp [reservedSet, idle]) _ _ _

/-- A program goes on from where its first command leaves the machine (R80). -/
theorem runProgram_cons {i : Instr} {rest : List Instr} {s t : State} (h : exec i s = .next t) :
    runProgram (i :: rest) s = runProgram rest t := by
  rw [runProgram, h]

/-- With no stream open, `AD_MSG` takes every byte into the sums and answers `OK` to each. -/
theorem runProgram_adMsg (bytes : List Byte) {s : State} (idle : s.zs.isOpen = false) :
    runProgram (adMsg bytes) s = .next
      { s with
        ad := bytes.foldl (fun u byte => adlerStep byte u) s.ad
        responses := s.responses ++ List.replicate bytes.length (responseWord 0 0) } := by
  induction bytes generalizing s with
  | nil => simp [adMsg, runProgram]
  | cons byte bytes ih =>
    rw [adMsg, List.map_cons, runProgram_cons (exec_adUpdate_idle idle byte), ← adMsg, ih]
    · simp [okAnswer, List.replicate_succ]
    · exact idle

theorem adlerSums_concat (bytes : List Byte) (byte : Byte) : adlerSums (bytes ++ [byte]) = adlerStep byte (adlerSums bytes) :=
  List.foldl_concat ..

/-- The running sum of the bytes plus one (R25). -/
def runningSum (bytes : List Byte) : Nat := 1 + (bytes.map BitVec.toNat).sum

/-- The running sums after the first, the second, up to the last byte (R25). -/
def runningSums (bytes : List Byte) : List Nat := (List.range bytes.length).map fun k => runningSum (bytes.take (k + 1))

theorem runningSum_concat (bytes : List Byte) (byte : Byte) : runningSum (bytes ++ [byte]) = runningSum bytes + byte.toNat := by
  simp [runningSum, Nat.add_assoc]

/-- One more byte adds one more running sum and leaves those before it. -/
theorem runningSums_concat (bytes : List Byte) (byte : Byte) :
    runningSums (bytes ++ [byte]) = runningSums bytes ++ [runningSum (bytes ++ [byte])] := by
  have before : ∀ k ∈ List.range bytes.length,
      runningSum ((bytes ++ [byte]).take (k + 1)) = runningSum (bytes.take (k + 1)) := by
    intro k hk
    rw [List.take_append_of_le_length (List.mem_range.1 hk)]
  have last : (bytes ++ [byte]).take (bytes.length + 1) = bytes ++ [byte] := List.take_of_length_le (by simp)
  simp only [runningSums, List.length_append, List.length_singleton, List.range_succ, List.map_append, List.map_cons,
    List.map_nil, List.map_congr_left before, last]

/-- `a` is the running sum modulo 65521. -/
theorem adlerSums_a (bytes : List Byte) : (adlerSums bytes).a.toNat = runningSum bytes % 65521 := by
  induction bytes using List.reverseRecOn with
  | nil => rfl
  | append_singleton bytes byte ih => rw [adlerSums_concat, adlerStep_a, ih, Nat.mod_add_mod, runningSum_concat]

/-- `b` is the sum of the running sums modulo 65521: each step adds the new `a`. -/
theorem adlerSums_b (bytes : List Byte) : (adlerSums bytes).b.toNat = (runningSums bytes).sum % 65521 := by
  induction bytes using List.reverseRecOn with
  | nil => rfl
  | append_singleton bytes byte ih =>
    rw [adlerSums_concat, adlerStep_b, ← adlerStep_a, ← adlerSums_concat, adlerSums_a, ih, ← Nat.add_mod, runningSums_concat,
      List.sum_append, List.sum_singleton]

/-- Settles O43: the sums are those of the model's `adlerSums`, which have the closed form. -/
theorem adlerSumsInClosedForm : Obligations.AdlerSumsInClosedForm := by
  intro bytes s idle
  refine ⟨adlerSums bytes, ?_, adlerSums_a bytes, adlerSums_b bytes⟩
  rw [runProgram_cons (exec_adInit_idle idle), runProgram_adMsg]
  · simp [okAnswer, adlerSums, List.replicate_succ]
  · exact idle

end Sys2Proof.Machine

/-! PROOFS. The obligations of 20_memory.md: a step runs the decoded command (R61, R80), every command word answers the status
of its first failing check (R62, R233), `OUT` and the responses only grow (R62, R63), commands run in order (R80), and a
digest's bytes are its words (R69, R74). -/

namespace Sys2Proof.Machine

/-! Decoder and encoder (R90, R93). -/

/-- The fields of the command that `op` and `arg` stand for are `op` and `arg` (R91, R93). -/
theorem fields_of_decodeFields {op : BitVec 8} {arg : Word} {i : Instr} (h : decodeFields op arg = .ok i) :
    i.opcode = op ∧ i.arg = arg := by
  unfold decodeFields at h
  split at h
  all_goals cases h
  all_goals exact ⟨rfl, by simp [Instr.arg]⟩

theorem encode_of_decode {cw : CommandWord} {i : Instr} (h : decode cw = .ok i) : encode i = cw := by
  obtain ⟨op, arg⟩ := fields_of_decodeFields h
  rw [encode, op, arg, commandWord_fields]

/-- A word that decodes to no command is refused for its opcode (R95). -/
theorem decode_error {cw : CommandWord} {e : DecodeError} (h : decode cw = .error e) : e = .illegalOpcode (opField cw) := by
  unfold decode decodeFields at h
  split at h
  all_goals cases h
  rfl

theorem decode_encode (i : Instr) : decode (encode i) = .ok i := by
  rw [encode, decode_commandWord]
  cases i with
  | shaUpdate r byte | crcUpdate r byte | adUpdate r byte | zsData r byte =>
    exact congrArg Except.ok (congrArg₂ _ (reservedB_argB r byte) (byteB_argB r byte))
  | sysRdcsr r index => exact congrArg Except.ok (congrArg₂ _ (reservedI4_argI4 r index) (indexI4_argI4 r index))
  | shaRead r index => exact congrArg Except.ok (congrArg₂ _ (reservedI3_argI3 r index) (indexI3_argI3 r index))
  | xsInt min max => exact congrArg Except.ok (congrArg₂ _ (minP_argP min max) (maxP_argP min max))
  | _ => rfl

/-! One step on a command word (R61, R80). -/

theorem runWord_of_decode {cw : CommandWord} {i : Instr} (h : decode cw = .ok i) (s : State) : runWord cw s = exec i s := by
  rw [runWord, h]

theorem step_of_decode {s : State} {cw : CommandWord} {rest : List HostEvent} {i : Instr}
    (port : s.port = .command cw :: rest) (h : decode cw = .ok i) : step s = exec i { s with port := rest } := by
  rw [step, takeNext, port]
  exact runWord_of_decode h _

/-- An opcode-table word of 40 bits is its number (R90). -/
theorem tableWord_toNat (cw : CommandWord) : tableWord 40 cw.toNat = cw := by
  rw [tableWord, Nat.mod_eq_of_lt cw.isLt, BitVec.ofNat_toNat, BitVec.setWidth_eq]

/-- Settles O6. -/
theorem stepRunsDecodedCommand : Obligations.StepRunsDecodedCommand := by
  refine ⟨fun s cw rest i port h => step_of_decode port h, fun i s => ?_⟩
  rw [State.withFetchWord, tableWord_toNat]
  exact step_of_decode (presentWord_port ..) (decode_encode i)

/-! The causes of R231 in the order of R233, for every command at once. -/

/-- The checks of R233 in its order; a check that a command does not make passes. -/
def causes (i : Instr) (s : State) : List (Bool × ErrorCode) :=
  [(!i.wellFormed, .arg), (busyFor i s, .busy), (outOfSequence i s, .seq), (overLength i s, .len)]

/-- The status of the first failing check, `OK` if none fails (R92, R233). -/
def checkedStatus (checks : List (Bool × ErrorCode)) : BitVec 4 := ((firstError checks).map errorStatus).getD statusOk

theorem checkedStatus_causes (i : Instr) (s : State) : checkedStatus (causes i s) = expectedStatus i s := by
  simp only [checkedStatus, causes, firstError_cons, firstError_nil, expectedStatus, Bool.not_eq_true']
  split_ifs <;> rfl

/-- Of its checks, a command depends on the first failing one alone. -/
theorem runCommand_congr {op : BitVec 8} {checks checks' : List (Bool × ErrorCode)} {done : State} {res : Word} {s : State}
    (h : firstError checks = firstError checks') : runCommand op checks done res s = runCommand op checks' done res s := by
  rw [runCommand, runCommand, h]

/-- R50: the CSR indices above 12 are reserved. -/
theorem csrOfIndex_isNone (index : BitVec 4) : (csrOfIndex index).isNone = !decide (index ≤ 12) := by
  revert index
  decide

/-- The machine compares words, R231's length limits compare numbers. -/
theorem beq_eq_toNat_beq {w : Nat} (v c : BitVec w) : (v == c) = (v.toNat == c.toNat) := by
  rw [Bool.eq_iff_iff, beq_iff_eq, beq_iff_eq, BitVec.toNat_inj]

/-- Every command is a `runCommand` on the causes of R233, with work that leaves the responses alone. Most
commands write their checks as R231 does; the cases named here write one of them in other words. -/
theorem exec_eq_runCommand (i : Instr) (s : State) :
    ∃ done res, exec i s = runCommand i.opcode (causes i s) done res s ∧ done.responses = s.responses := by
  cases i with
  | sysRdcsr r index =>
    refine ⟨_, _, runCommand_congr ?_, rfl⟩
    simp [causes, Instr.wellFormed, busyFor, outOfSequence, overLength, csrOfIndex_isNone, reservedSet, bne]
  | shaUpdate r byte =>
    refine ⟨_, _, runCommand_congr ?_, rfl⟩
    rw [beq_eq_toNat_beq]
    rfl
  | xsPick length =>
    refine ⟨_, _, runCommand_congr ?_, rfl⟩
    simp [causes, Instr.wellFormed, busyFor, outOfSequence, overLength]
  | zsData r byte =>
    refine ⟨_, _, runCommand_congr ?_, rfl⟩
    rw [beq_eq_toNat_beq]
    rfl
  | zsEnd r =>
    refine ⟨_, _, runCommand_congr ?_, rfl⟩
    rw [bne, beq_eq_toNat_beq]
    rfl
  | _ => exact ⟨_, _, runCommand_congr rfl, rfl⟩

/-- A command always leaves a next state (R230). -/
theorem exec_next (i : Instr) (s : State) : ∃ t, exec i s = .next t := by
  obtain ⟨done, res, run, -⟩ := exec_eq_runCommand i s
  rw [run]
  exact runCommand_next ..

/-! The one response of a command word (R62, R92, R232). -/

@[simp] theorem responseStatus_responseWord (st : BitVec 4) (res : Word) : responseStatus (responseWord st res) = st :=
  extractLsb'_append_high st res

theorem raiseErr_eq_errorAnswer (op : BitVec 8) (code : ErrorCode) (s : State) :
    raiseErr op code s = errorAnswer op (errorStatus code) s := rfl

/-- From `s` to `t` the block gave one response, of status `st`; an error is R232's answer to `op` and nothing else. -/
structure Answers (op : BitVec 8) (st : BitVec 4) (s t : State) : Prop where
  responses : ∃ res, t.responses = s.responses ++ [responseWord st res]
  error : st ≠ statusOk → t = errorAnswer op st s

theorem answers_raiseErr (op : BitVec 8) (code : ErrorCode) (s : State) :
    Answers op (errorStatus code) s (raiseErr op code s) :=
  ⟨⟨0, raiseErr_responses ..⟩, fun _ => raiseErr_eq_errorAnswer ..⟩

theorem answers_runCommand {op : BitVec 8} {checks : List (Bool × ErrorCode)} {done : State} {res : Word} {s t : State}
    (silent : done.responses = s.responses) (h : runCommand op checks done res s = .next t) :
    Answers op (checkedStatus checks) s t := by
  obtain ⟨code, failed, rfl⟩ | ⟨passed, rfl⟩ := runCommand_cases h
  · rw [checkedStatus, failed]
    exact answers_raiseErr op code s
  · rw [checkedStatus, passed]
    exact ⟨⟨res, by rw [respond_responses, silent]; rfl⟩, fun failed => absurd rfl failed⟩

theorem answers_exec {i : Instr} {s t : State} (h : exec i s = .next t) : Answers i.opcode (expectedStatus i s) s t := by
  obtain ⟨done, res, run, silent⟩ := exec_eq_runCommand i s
  rw [← checkedStatus_causes]
  exact answers_runCommand silent (run ▸ h)

/-- The status a command word answers (R231): `ERR_ILLOP` where it decodes to no command. -/
def wordStatus (cw : CommandWord) (s : State) : BitVec 4 :=
  match decode cw with
  | .ok i => expectedStatus i s
  | .error _ => errorStatus .illop

theorem answers_runWord (cw : CommandWord) (s : State) :
    ∃ t, runWord cw s = .next t ∧ Answers (opField cw) (wordStatus cw s) s t := by
  cases h : decode cw with
  | ok i =>
    obtain ⟨t, run⟩ := exec_next i s
    have op : opField cw = i.opcode := by rw [← encode_of_decode h, opField_encode]
    rw [runWord_of_decode h, wordStatus, h, op]
    exact ⟨t, run, answers_exec run⟩
  | error e =>
    rw [runWord, wordStatus, h, decode_error h]
    exact ⟨_, rfl, answers_raiseErr ..⟩

/-- Settles O9: the response and its status are those of `answers_runWord`. -/
theorem everyWordAnswersItsStatus : Obligations.EveryWordAnswersItsStatus := by
  intro cw s
  obtain ⟨t, run, ⟨res, responses⟩, error⟩ := answers_runWord cw s
  refine ⟨t, responseWord (wordStatus cw s) res, run, responses, responseStatus_responseWord .., ?_⟩
  rwa [responseStatus_responseWord]

/-! What stands on `OUT` and at the response port stays (R62, R63). -/

/-- From `s` to `t` the block appended bytes to `OUT` and at most one response. -/
structure Appends (s t : State) : Prop where
  out : ∃ bytes, t.out = s.out ++ bytes
  responses : ∃ words, t.responses = s.responses ++ words ∧ words.length ≤ 1

theorem Appends.of_eq {s t : State} (out : t.out = s.out) (responses : t.responses = s.responses) : Appends s t :=
  ⟨⟨[], by rw [out, List.append_nil]⟩, [], by rw [responses, List.append_nil], by simp⟩

/-- A command appends what it appends at any ports (R3), its own among them. -/
theorem appends_exec {i : Instr} {s t : State} (h : exec i s = .next t) : Appends s t := by
  obtain ⟨-, r, bytes, -, -, -, -, -, -, -, responses, -, out, -⟩ :=
    portsAreNeverRead i s s t rfl rfl rfl rfl rfl rfl h
  exact ⟨⟨bytes, out⟩, [r], responses, le_rfl⟩

theorem appends_runWord {cw : CommandWord} {s t : State} (h : runWord cw s = .next t) : Appends s t := by
  obtain ⟨i, -, run⟩ | ⟨op, -, rfl⟩ := runWord_cases h
  · exact appends_exec run
  · exact ⟨⟨[], (List.append_nil _).symm⟩, [_], raiseErr_responses .., le_rfl⟩

/-- A cut-short command keeps all it appended, or the first of its bytes and no response (R260, log 8). -/
theorem Appends.cutShort {s t : State} (h : Appends s t) : Appends s (cutShort s t) := by
  obtain whole | ⟨k, cut⟩ := cutShort_cases s t
  · rw [whole]
    exact ⟨h.out, h.responses⟩
  · obtain ⟨bytes, out⟩ := h.out
    rw [cut]
    exact ⟨⟨bytes.take k, by rw [out, List.take_length_add_append]⟩, [], (List.append_nil _).symm, by simp⟩

theorem appends_takeEvent {e : HostEvent} {s t : State} (h : takeEvent e s = .next t) : Appends s t := by
  obtain ⟨cw, -, run⟩ | ⟨during, -, rfl⟩ | ⟨cw, during, u, -, run, rfl⟩ := takeEvent_cases h
  · exact appends_runWord run
  · exact .of_eq rfl rfl
  · exact (appends_runWord run).cutShort

/-- A step idles or takes a host event, and taking it off the port leaves `OUT` and the responses. -/
theorem appends_step {s t : State} (h : step s = .next t) : Appends s t := by
  obtain ⟨-, rfl⟩ | ⟨e, rest, -, taken⟩ := step_cases h
  · exact .of_eq rfl rfl
  · obtain ⟨out, responses⟩ := appends_takeEvent taken
    exact ⟨out, responses⟩

/-- Settles O50. -/
theorem outIsAppendOnly : Obligations.OutIsAppendOnly := by
  intro s t h
  obtain ⟨out, responses⟩ := appends_step h
  exact ⟨out, responses⟩

/-! A program on the port (R80). -/

/-- What a command does is the same with the rest of the program waiting behind it (R3). -/
theorem exec_issue {i : Instr} {s t : State} (program : List Instr) (h : exec i s = .next t) :
    exec i (issue program s) = .next (issue program t) := by
  obtain ⟨st, res, bytes, same⟩ := exec_atPorts h
  have atOwn : t = t.atPorts (respond st res (emit bytes s)) := by
    simpa only [atPorts_self, h, Host.Outcome.next.injEq] using same s
  rw [atOwn]
  exact same (issue program s)

/-- The first command of a program on the port is the one the next step runs. -/
theorem step_issue_cons {i : Instr} {s t : State} (rest : List Instr) (h : exec i s = .next t) :
    step (issue (i :: rest) s) = .next (issue rest t) := by
  rw [step_of_decode (rest := commandEvents rest ++ s.port) rfl (decode_encode i)]
  exact exec_issue rest h

/-- A run goes on from where its first step leaves the machine. -/
theorem run_succ_of_step {M : Host.Core} {s t : M.State} (k : Nat) (h : M.step s = .next t) :
    M.run (k + 1) s = M.run k t := by
  rw [Host.Core.run, h]

/-- One step for each command runs the program. -/
theorem run_issue (program : List Instr) (s : State) :
    Host.Core.run core program.length (issue program s) = runProgram program s := by
  induction program generalizing s with
  | nil => rfl
  | cons i rest ih =>
    obtain ⟨t, run⟩ := exec_next i s
    rw [runProgram_cons run, ← ih t]
    exact run_succ_of_step (M := core) _ (step_issue_cons rest run)

/-- A program's second part goes on from where the first leaves the machine. -/
theorem runProgram_append {first : List Instr} {s t : State} (second : List Instr) (h : runProgram first s = .next t) :
    runProgram (first ++ second) s = runProgram second t := by
  induction first generalizing s with
  | nil =>
    cases h
    rfl
  | cons i rest ih =>
    obtain ⟨u, run⟩ := exec_next i s
    rw [runProgram_cons run] at h
    rw [List.cons_append, runProgram_cons run, ih h]

/-- Settles O52. -/
theorem commandsRunInOrder : Obligations.CommandsRunInOrder := by
  intro program s
  refine ⟨run_issue program s, ?_⟩
  rintro first second t rfl ran
  exact runProgram_append second ran

/-! Words and their bytes (R68, R69, R74). -/

/-- The word of a word's bytes is the word itself (R68, R69). -/
theorem wordOfBytes_bigEndian32 (w : Word) :
    wordOfBytes (w.extractLsb' 24 8) (w.extractLsb' 16 8) (w.extractLsb' 8 8) (w.extractLsb' 0 8) = w := by
  rw [wordOfBytes]
  iterate 3 rw [BitVec.extractLsb'_append_extractLsb'_eq_extractLsb' (by rfl)]
  exact BitVec.extractLsb'_eq_self

/-- The first four bytes make the first word. -/
theorem wordsOfBytes_cons (d0 d1 d2 d3 : Byte) (rest : List Byte) :
    wordsOfBytes (d0 :: d1 :: d2 :: d3 :: rest) = wordOfBytes d0 d1 d2 d3 :: wordsOfBytes rest := by
  have words : (d0 :: d1 :: d2 :: d3 :: rest).length / 4 = rest.length / 4 + 1 := by simp only [List.length_cons]; omega
  rw [wordsOfBytes, words, List.range_succ_eq_map, List.map_cons, List.map_map]
  rfl

/-- Words come back from their bytes. -/
theorem wordsOfBytes_flatMap_bigEndian32 (words : List Word) : wordsOfBytes (words.flatMap bigEndian32) = words := by
  induction words with
  | nil => rfl
  | cons w rest ih =>
    rw [List.flatMap_cons]
    exact (wordsOfBytes_cons ..).trans (congrArg₂ List.cons (wordOfBytes_bigEndian32 w) ih)

theorem wordsOfBytes_digestBytes (h : Vector Word 8) : wordsOfBytes (digestBytes h) = h.toList :=
  wordsOfBytes_flatMap_bigEndian32 h.toList

theorem digestBytes_length (h : Vector Word 8) : (digestBytes h).length = 32 := by
  simp [digestBytes, bigEndian32, List.length_flatMap]

theorem byteAt_append {bytes : List Byte} {j : Nat} (h : j < bytes.length) (tail : List Byte) :
    byteAt (bytes ++ tail) j = byteAt bytes j := List.getD_append _ _ _ _ h

/-- A trailing partial chunk makes no word and enters none (R69, R74). -/
theorem wordsOfBytes_append_partial {bytes tail : List Byte} (whole : bytes.length % 4 = 0) (short : tail.length < 4) :
    wordsOfBytes (bytes ++ tail) = wordsOfBytes bytes := by
  have words : (bytes ++ tail).length / 4 = bytes.length / 4 := by rw [List.length_append]; omega
  rw [wordsOfBytes, wordsOfBytes, words]
  refine List.map_congr_left fun k hk => ?_
  have inside : 4 * k + 3 < bytes.length := by have := List.mem_range.1 hk; omega
  rw [byteAt_append (by omega), byteAt_append (by omega), byteAt_append (by omega), byteAt_append inside]

/-- Settles O35: `XS_SEEDB` on a digest's bytes seeds with the words that `XS_SEEDSHA` reads. -/
theorem seedWordsOfDigest : Obligations.SeedWordsOfDigest :=
  ⟨fun h => ⟨wordsOfBytes_digestBytes h, digestBytes_length h, congrArg xsSeedV (wordsOfBytes_digestBytes h)⟩,
    fun _ _ => wordsOfBytes_append_partial⟩

end Sys2Proof.Machine

/-! PROOFS. The obligations of 30_encoding.md: decoder and encoder are inverse (R90, R91), the opcode map selects the words
that decode (R93), the illegal opcodes (R95), and the operand check (R94). -/

namespace Sys2Proof.Machine

/-! Decoder and encoder (R90, R93). -/

/-- Settles O1. -/
theorem decodeEncodeAgree : Obligations.DecodeEncodeAgree := decode_encode

/-- Settles O2. -/
theorem encodeDecodeAgree : Obligations.EncodeDecodeAgree := fun _ _ => encode_of_decode

/-- A word that is a command's encoding decodes to that command. -/
theorem decode_of_encode {cw : CommandWord} {i : Instr} (h : encode i = cw) : decode cw = .ok i := by
  rw [← h, decode_encode]

/-- Settles O5: each legal sample word is the encoding of its command. -/
theorem sampleWordsDecode : Obligations.SampleWordsDecode := by
  refine ⟨?_, ?_, ?_, ?_, ?_, ?_, ?_, ?_, rfl⟩ <;> exact decode_of_encode (by decide)

theorem opField_of_decode {cw : CommandWord} {i : Instr} (h : decode cw = .ok i) : opField cw = i.opcode := by
  rw [← encode_of_decode h, opField_encode]

/-! The opcode map (R93). -/

/-- The opcodes of the opcode map, R93, in its order. -/
def definedOpcodes : List (BitVec 8) := opcodeTable.map OpcodeRow.op

theorem mem_definedOpcodes {op : BitVec 8} : op ∈ definedOpcodes ↔ ∃ row ∈ opcodeTable, row.op = op := List.mem_map

/-- The mask keeps `OP` and clears `ARG` (R93). -/
theorem and_opcodeMask (cw : CommandWord) : cw &&& opcodeMask = commandWord (opField cw) 0 := by
  have mask : opcodeMask = commandWord (BitVec.allOnes 8) 0 := rfl
  conv_lhs => rw [← commandWord_fields cw, mask, commandWord, commandWord, BitVec.and_append]
  rw [BitVec.and_allOnes, commandWord]
  exact congrArg _ BitVec.and_zero

/-- `OP` alone selects (R93). -/
theorem selects_eq (row : OpcodeRow) (cw : CommandWord) : row.selects cw = (row.op == opField cw) := by
  rw [OpcodeRow.selects, and_opcodeMask, OpcodeRow.pattern, Bool.eq_iff_iff, beq_iff_eq, beq_iff_eq]
  constructor
  · intro same
    simpa using (congrArg opField same).symm
  · intro same
    rw [same]

/-- The map has one row for the opcode of a command (R93). -/
theorem opcodeTable_filter_opcode (i : Instr) :
    ∃ row, opcodeTable.filter (·.op == i.opcode) = [row] ∧ row.op = i.opcode := by
  cases i <;> exact ⟨_, rfl, rfl⟩

theorem opcode_mem_definedOpcodes (i : Instr) : i.opcode ∈ definedOpcodes := by
  obtain ⟨row, only, op⟩ := opcodeTable_filter_opcode i
  have found : row ∈ opcodeTable.filter (·.op == i.opcode) := by rw [only]; exact List.mem_singleton_self row
  exact mem_definedOpcodes.2 ⟨row, List.mem_of_mem_filter found, op⟩

/-- Every row of the map has its command, whatever `ARG` (R93). -/
theorem decodeFields_of_mem_opcodeTable {row : OpcodeRow} (h : row ∈ opcodeTable) (arg : Word) :
    ∃ i, decodeFields row.op arg = .ok i := by
  fin_cases h <;> exact ⟨_, rfl⟩

/-- A word decodes exactly if the map has its opcode, whatever `ARG` (R93, R95). -/
theorem decode_ok_iff {cw : CommandWord} : (∃ i, decode cw = .ok i) ↔ opField cw ∈ definedOpcodes := by
  constructor
  · rintro ⟨i, h⟩
    rw [opField_of_decode h]
    exact opcode_mem_definedOpcodes i
  · intro h
    obtain ⟨row, mem, op⟩ := mem_definedOpcodes.1 h
    rw [decode, ← op]
    exact decodeFields_of_mem_opcodeTable mem _

/-- A word whose opcode the map lacks is refused for its opcode (R95). -/
theorem decode_of_not_mem {cw : CommandWord} (h : opField cw ∉ definedOpcodes) :
    decode cw = .error (.illegalOpcode (opField cw)) := by
  cases decoded : decode cw with
  | ok i => exact absurd (decode_ok_iff.1 ⟨i, decoded⟩) h
  | error e => rw [decode_error decoded]

theorem filter_selects (cw : CommandWord) :
    opcodeTable.filter (·.selects cw) = opcodeTable.filter (·.op == opField cw) :=
  List.filter_congr fun row _ => selects_eq row cw

/-- Settles O3: a row selects by its opcode, so the rows that select are those with the word's opcode. -/
theorem opcodeMapSelects : Obligations.OpcodeMapSelects := by
  intro cw
  cases h : decode cw with
  | ok i =>
    obtain ⟨row, only, op⟩ := opcodeTable_filter_opcode i
    have field := opField_of_decode h
    exact ⟨row, by rw [filter_selects, field, only], op, by rw [field, op]⟩
  | error e =>
    refine ⟨?_, decode_error h⟩
    rw [filter_selects, List.filter_eq_nil_iff]
    intro row mem same
    obtain ⟨i, decoded⟩ := decode_ok_iff.2 (mem_definedOpcodes.2 ⟨row, mem, eq_of_beq same⟩)
    rw [h] at decoded
    cases decoded

/-! The illegal opcodes (R95). -/

/-- The ranges of R95 are the opcodes that the map of R93 lacks. -/
theorem illegalOp_iff (op : BitVec 8) : illegalOp op = true ↔ op ∉ definedOpcodes := by
  revert op
  decide

theorem runWord_of_illegalOp {cw : CommandWord} (h : illegalOp (opField cw) = true) (s : State) :
    runWord cw s = .next (errorAnswer (opField cw) 1 s) := by
  rw [runWord, decode_of_not_mem ((illegalOp_iff _).1 h)]
  exact congrArg Host.Outcome.next (raiseErr_eq_errorAnswer ..)

theorem decode_of_legalOp {cw : CommandWord} (h : illegalOp (opField cw) = false) : ∃ i, decode cw = .ok i := by
  refine decode_ok_iff.2 (Decidable.byContradiction fun undefined => ?_)
  exact absurd ((illegalOp_iff _).2 undefined) (by simp [h])

/-- Settles O4: the illegal opcodes are those that the map lacks, and the map alone decides whether a word decodes. -/
theorem illegalOpcodesAnswerIllop : Obligations.IllegalOpcodesAnswerIllop := by
  refine ⟨rfl, fun cw s => ⟨fun illegal => runWord_of_illegalOp illegal s, fun legal => ?_⟩⟩
  obtain ⟨i, decoded⟩ := decode_of_legalOp legal
  exact ⟨i, decoded, runWord_of_decode decoded s⟩

/-! The operand check (R94). -/

/-- A limit below the low field's range says that the high field is 0 and the low field is within it. -/
theorem toNat_append_le_iff {m n c : Nat} (hc : c < 2 ^ n) (x : BitVec m) (y : BitVec n) :
    (x ++ y).toNat ≤ c ↔ x = 0 ∧ y.toNat ≤ c := by
  rw [BitVec.toNat_append, ← Nat.shiftLeft_add_eq_or_of_lt y.isLt, Nat.shiftLeft_eq]
  constructor
  · intro h
    have zero : x.toNat = 0 := by
      by_contra nonzero
      have := Nat.le_mul_of_pos_left (2 ^ n) (Nat.pos_of_ne_zero nonzero)
      omega
    exact ⟨BitVec.eq_of_toNat_eq zero, by omega⟩
  · rintro ⟨rfl, h⟩
    simpa using h

/-- The reserved bits of format `B` are 0 exactly if `ARG` is a byte (R91, R94). -/
theorem argB_le_iff (r : BitVec 24) (byte : Byte) : (argB r byte).toNat ≤ 255 ↔ r = 0 := by
  have := byte.isLt
  rw [argB, toNat_append_le_iff (by decide)]
  exact and_iff_left (by omega)

/-- The reserved bits of format `I3` are 0 exactly if `ARG` is an index (R91, R94). -/
theorem argI3_le_iff (r : BitVec 29) (index : BitVec 3) : (argI3 r index).toNat ≤ 7 ↔ r = 0 := by
  have := index.isLt
  rw [argI3, toNat_append_le_iff (by decide)]
  exact and_iff_left (by omega)

/-- `ARG` passes for format `I4` exactly if the reserved bits are 0 and the CSR index is defined (R50, R91, R94). -/
theorem argI4_le_iff (r : BitVec 28) (index : BitVec 4) : (argI4 r index).toNat ≤ 12 ↔ r = 0 ∧ index ≤ 12 :=
  toNat_append_le_iff (by decide) r index

/-- The operand check is the table of R94. In the formats not named here both sides compute to the same test. -/
theorem wellFormed_eq_argPasses (i : Instr) : i.wellFormed = argPasses i.opcode i.arg := by
  cases i with
  | shaUpdate r byte | crcUpdate r byte | adUpdate r byte | zsData r byte =>
    exact (decide_eq_decide.2 (argB_le_iff r byte)).symm
  | shaRead r index => exact (decide_eq_decide.2 (argI3_le_iff r index)).symm
  | sysRdcsr r index =>
    rw [Instr.wellFormed, beq_eq_decide, ← Bool.decide_and]
    exact (decide_eq_decide.2 (argI4_le_iff r index)).symm
  | _ => rfl

/-- The operand check comes first (R94, R233). -/
theorem exec_of_illFormed {i : Instr} (h : i.wellFormed = false) (s : State) :
    exec i s = .next (errorAnswer i.opcode 2 s) := by
  obtain ⟨done, res, run, -⟩ := exec_eq_runCommand i s
  have first : firstError (causes i s) = some .arg := by simp [causes, h]
  rw [run, runCommand_error first]
  exact congrArg Host.Outcome.next (raiseErr_eq_errorAnswer ..)

/-- The causes after the operand check have codes of their own (R231). -/
theorem expectedStatus_ne_errArg {i : Instr} (h : i.wellFormed = true) (s : State) : expectedStatus i s ≠ 2 := by
  rw [expectedStatus, if_neg (by simp [h])]
  split_ifs <;> decide

/-- Settles O7. -/
theorem operandCheckAnswersErrArg : Obligations.OperandCheckAnswersErrArg := by
  refine ⟨wellFormed_eq_argPasses, fun i s illFormed => exec_of_illFormed illFormed s, fun i s wellFormed => ?_⟩
  obtain ⟨t, run⟩ := exec_next i s
  obtain ⟨⟨res, responses⟩, -⟩ := answers_exec run
  refine ⟨t, _, run, responses, ?_⟩
  rw [responseStatus_responseWord]
  exact expectedStatus_ne_errArg wellFormed s

end Sys2Proof.Machine

/-! PROOFS. The obligations of 40_sha256.md: the SHA unit's commands (R124 to R127), the constants by their definition (R121,
R122), the compression (R120 to R123), the padding (R126), and the digest of a whole message (R128). -/

namespace Sys2Proof.Machine

/-! The commands of the SHA unit (R124 to R127, R129). -/

/-- A command answers the error of its first cause (R231, R233). -/
theorem exec_of_expectedStatus {i : Instr} {s : State} {st : BitVec 4} (h : expectedStatus i s = st) (failed : st ≠ 0) :
    exec i s = .next (errorAnswer i.opcode st s) := by
  obtain ⟨t, run⟩ := exec_next i s
  rw [run, (answers_exec run).error (h ▸ failed), h]

theorem exec_of_outOfSequence {i : Instr} {s : State} (wellFormed : i.wellFormed = true) (notBusy : busyFor i s = false)
    (h : outOfSequence i s = true) : exec i s = .next (errorAnswer i.opcode 3 s) :=
  exec_of_expectedStatus (by simp [expectedStatus, wellFormed, notBusy, h]) (by decide)

theorem exec_of_overLength {i : Instr} {s : State} (wellFormed : i.wellFormed = true) (notBusy : busyFor i s = false)
    (inSequence : outOfSequence i s = false) (h : overLength i s = true) : exec i s = .next (errorAnswer i.opcode 5 s) :=
  exec_of_expectedStatus (by simp [expectedStatus, wellFormed, notBusy, inSequence, h]) (by decide)

theorem exec_shaInit (s : State) : exec (.shaInit 0) s = .next (okAnswer 0 { s with sha := .reset }) := rfl

theorem exec_shaUpdate {s : State} (absorbing : s.sha.done = false) (room : s.sha.len.toNat ≠ 2 ^ 61 - 1) (byte : Byte) :
    exec (.shaUpdate 0 byte) s = .next (okAnswer 0 { s with sha := absorbByte byte s.sha }) := by
  have notFull : (s.sha.len == shaMaxLen) = false := by rw [beq_eq_toNat_beq]; exact beq_false_of_ne room
  exact runCommand_ok (by simp [reservedSet, absorbing, notFull]) _ _ _

theorem exec_shaFinal {s : State} (absorbing : s.sha.done = false) :
    exec (.shaFinal 0) s = .next (okAnswer 0 { s with sha := finalize s.sha }) :=
  runCommand_ok (by simp [reservedSet, absorbing]) _ _ _

theorem exec_shaRead {s : State} (finished : s.sha.done = true) (index : BitVec 3) :
    exec (.shaRead 0 index) s = .next (okAnswer (s.sha.h.toList.getD index.toNat 0) s) := by
  have word : s.sha.h.toList.getD index.toNat 0 = s.sha.h[index.toNat]'index.isLt := by
    rw [List.getD_eq_getElem _ _ (by simpa using index.isLt)]
    rfl
  rw [word]
  exact runCommand_ok (by simp [reservedSet, finished]) _ _ _

/-- Settles O16. -/
theorem shaInitRestarts : Obligations.ShaInitRestarts :=
  ⟨rfl, fun s => ⟨⟨.reset, exec_shaInit s, rfl, Memory.read_empty, rfl, rfl, rfl⟩,
    fun r reserved => exec_of_illFormed (i := .shaInit r) (beq_false_of_ne reserved) s⟩⟩

/-- Settles O17. -/
theorem shaUpdateAbsorbsByte : Obligations.ShaUpdateAbsorbsByte := by
  refine ⟨rfl, fun r byte s wf => ⟨fun reserved => ?_, ?_, ?_, ?_⟩⟩
  · exact exec_of_illFormed (i := .shaUpdate r byte) (beq_false_of_ne reserved) s
  · rintro rfl finished
    exact exec_of_outOfSequence rfl rfl finished
  · rintro rfl absorbing full
    exact exec_of_overLength rfl rfl absorbing (beq_iff_eq.2 full)
  · rintro rfl absorbing room
    refine ⟨_, exec_shaUpdate absorbing room byte, fun a => ?_, ?_, ?_, fun full => ?_, fun notFull => ?_⟩
    · rw [absorbByte_buf, Memory.read_write _ wf]
    · rw [absorbByte_len]
      bv_omega
    · rw [absorbByte_done, absorbing]
    · have full : s.sha.fill = 63 := BitVec.eq_of_toNat_eq full
      simp [absorbByte, full]
    · have notFull : s.sha.fill ≠ 63 := fun full => notFull (congrArg BitVec.toNat full)
      refine ⟨?_, by rw [absorbByte, if_neg notFull]⟩
      rw [absorbByte_fill]
      bv_omega

/-- The bytes of word `k` are the bytes `4 k` to `4 k + 3` (R68). -/
theorem take_drop_flatMap_bigEndian32 (words : List Word) {k : Nat} (h : k < words.length) :
    ((words.flatMap bigEndian32).drop (4 * k)).take 4 = bigEndian32 (words.getD k 0) := by
  induction words generalizing k with
  | nil => simp at h
  | cons w rest ih =>
    cases k with
    | zero => rfl
    | succ k => exact ih (Nat.lt_of_succ_lt_succ h)

/-- Settles O19. -/
theorem shaReadAnswersWord : Obligations.ShaReadAnswersWord := by
  refine ⟨rfl, fun r index s => ⟨fun reserved => ?_, ?_, ?_⟩⟩
  · exact exec_of_illFormed (i := .shaRead r index) (beq_false_of_ne reserved) s
  · rintro rfl absorbing
    exact exec_of_outOfSequence rfl rfl (congrArg Bool.not absorbing)
  · rintro rfl finished
    have inside : index.toNat < s.sha.h.toList.length := by simpa using index.isLt
    refine ⟨exec_shaRead finished index, take_drop_flatMap_bigEndian32 _ inside, ?_⟩
    rw [wordsOfBytes_digestBytes]

/-! The constants (R121, R122). -/

/-- The first 64 primes. -/
def firstPrimes : List Nat :=
  [2, 3, 5, 7, 11, 13, 17, 19, 23, 29, 31, 37, 41, 43, 47, 53, 59, 61, 67, 71, 73, 79, 83, 89, 97, 101, 103, 107, 109, 113,
   127, 131, 137, 139, 149, 151, 157, 163, 167, 173, 179, 181, 191, 193, 197, 199, 211, 223, 227, 229, 233, 239, 241, 251,
   257, 263, 269, 271, 277, 281, 283, 293, 307, 311]

/-- Trial division by the numbers whose square does not exceed `n`; up to 17 they suffice below 18². -/
def trialPrime (n : Nat) : Bool := decide (2 ≤ n) && (List.range' 2 16).all fun d => decide (n < d * d) || n % d != 0

/-- A composite number below 18² has a divisor up to 17. -/
theorem prime_iff_trialPrime {n : Nat} (h : n < 324) : Nat.Prime n ↔ trialPrime n = true := by
  rw [Nat.prime_def_le_sqrt]
  simp only [trialPrime, Bool.and_eq_true, decide_eq_true_eq, List.all_eq_true, List.mem_range'_1, Bool.or_eq_true, bne_iff_ne,
    Nat.le_sqrt, Nat.dvd_iff_mod_eq_zero]
  refine and_congr_right fun _ => ⟨fun noDivisor d ⟨two, _⟩ => ?_, fun noDivisor d two small => ?_⟩
  · by_cases small : d * d ≤ n
    · exact .inr (noDivisor d two small)
    · exact .inl (by omega)
  · have below : d < 18 := by nlinarith
    exact (noDivisor d ⟨two, below⟩).resolve_left (by omega)

theorem filter_prime_range : (List.range 312).filter (fun n => decide (Nat.Prime n)) = firstPrimes := by
  have trial : ∀ n ∈ List.range 312, decide (Nat.Prime n) = trialPrime n := fun n hn => by
    have below := List.mem_range.1 hn
    rw [Bool.eq_iff_iff, decide_eq_true_iff, prime_iff_trialPrime (by omega)]
  rw [List.filter_congr trial]
  decide

/-- Settles O57: with the primes listed, the whole parts of the roots are found by evaluation. -/
theorem shaConstantsAreRoots : Obligations.ShaConstantsAreRoots := by
  unfold Obligations.ShaConstantsAreRoots
  simp only [filter_prime_range]
  exact ⟨rfl, rfl, by decide, by decide⟩

/-! The compression (R120 to R123). -/

/-- Bit `i` of both sides is bit `i + n` modulo 32 (R8). -/
theorem rotr32_eq_rotateRight (v : Word) {n : Nat} (pos : 0 < n) (lt : n < 32) : rotr32 v n = v.rotateRight n := by
  refine BitVec.eq_of_getLsbD_eq fun i hi => ?_
  rw [rotateMovesBits v n i pos lt hi, BitVec.getLsbD_rotateRight, Nat.mod_eq_of_lt lt]
  by_cases low : i < 32 - n
  · rw [decide_eq_true low, cond_true, Nat.mod_eq_of_lt (by omega), Nat.add_comm]
  · have wrapped : (i + n) % 32 = i - (32 - n) := by omega
    rw [decide_eq_false low, cond_false, decide_eq_true hi, Bool.true_and, wrapped]

/-- The message schedule by R123 step 1, as a function of `t`. -/
def scheduleWord (block : List Word) (t : Nat) : Word :=
  if t < 16 then block.getD t 0
  else ssig1 (scheduleWord block (t - 2)) + scheduleWord block (t - 7) + ssig0 (scheduleWord block (t - 15))
    + scheduleWord block (t - 16)
termination_by t

theorem scheduleWord_of_lt (block : List Word) {t : Nat} (h : t < 16) : scheduleWord block t = block.getD t 0 := by
  rw [scheduleWord, if_pos h]

theorem scheduleWord_add_sixteen (block : List Word) (t : Nat) :
    scheduleWord block (t + 16) = ssig1 (scheduleWord block (t + 14)) + scheduleWord block (t + 9)
      + ssig0 (scheduleWord block (t + 1)) + scheduleWord block t := by
  rw [scheduleWord, if_neg (by omega)]
  rfl

/-- `W[t-1], W[t-2], …, W[0]`. -/
def scheduleBefore (block : List Word) (t : Nat) : List Word := ((List.range t).map (scheduleWord block)).reverse

theorem scheduleBefore_succ (block : List Word) (t : Nat) :
    scheduleBefore block (t + 1) = scheduleWord block t :: scheduleBefore block t := by
  simp [scheduleBefore, List.range_succ]

theorem scheduleBefore_getD (block : List Word) {t j : Nat} (h : j < t) :
    (scheduleBefore block t).getD j 0 = scheduleWord block (t - 1 - j) := by
  rw [List.getD_eq_getElem _ _ (by simpa [scheduleBefore] using h)]
  simp [scheduleBefore]

/-- Each step of the schedule is one application of its recurrence. -/
theorem iterate_scheduleStep {block : List Word} (sixteen : block.length = 16) (n : Nat) :
    Nat.iterate scheduleStep n block.reverse = scheduleBefore block (n + 16) := by
  induction n with
  | zero =>
    have words : (List.range 16).map (scheduleWord block) = block := by
      refine List.ext_getElem (by simp [sixteen]) fun t _ inBlock => ?_
      rw [List.getElem_map, List.getElem_range, scheduleWord_of_lt block (by omega), List.getD_eq_getElem _ _ inBlock]
    exact congrArg List.reverse words.symm
  | succ n ih =>
    rw [Function.iterate_succ_apply', ih, Nat.add_right_comm, scheduleBefore_succ block (n + 16), scheduleWord_add_sixteen,
      scheduleStep]
    iterate 4 rw [scheduleBefore_getD block (by omega)]
    rfl

theorem messageSchedule_eq {block : List Word} (sixteen : block.length = 16) :
    messageSchedule block = (List.range 64).map (scheduleWord block) := by
  rw [messageSchedule, iterate_scheduleStep sixteen, scheduleBefore, List.reverse_reverse]

/-- The working variables before round `t` (R123 steps 2 and 3). -/
def workingAt (h : Vector Word 8) (block : List Word) : Nat → Working
  | 0 => workingOf h
  | t + 1 => shaRound (workingAt h block t) (shaK.getD t 0, scheduleWord block t)

theorem foldl_range_shaRound (h : Vector Word 8) (block : List Word) (n : Nat) :
    (List.range n).foldl (fun v t => shaRound v (shaK.getD t 0, scheduleWord block t)) (workingOf h)
      = workingAt h block n := by
  induction n with
  | zero => rfl
  | succ n ih => rw [List.range_succ, List.foldl_concat, ih, workingAt]

theorem zip_shaK_messageSchedule {block : List Word} (sixteen : block.length = 16) :
    shaK.zip (messageSchedule block) = (List.range 64).map fun t => (shaK.getD t 0, scheduleWord block t) := by
  have constants : shaK = (List.range 64).map fun t => shaK.getD t 0 := rfl
  rw [messageSchedule_eq sixteen]
  conv_lhs => rw [constants]
  rw [List.zip_map']

theorem foldl_shaRound {block : List Word} (sixteen : block.length = 16) (h : Vector Word 8) :
    (shaK.zip (messageSchedule block)).foldl shaRound (workingOf h) = workingAt h block 64 := by
  rw [zip_shaK_messageSchedule sixteen, List.foldl_map, foldl_range_shaRound]

/-- The round constants, printed four to a line (R121). -/
theorem shaK_getD {t : Nat} (h : t < 64) :
    shaK.getD t 0 = (shaKLines.getD (t / 4) 0).extractLsb' (96 - 32 * (t % 4)) 32 := by
  revert t
  decide

/-- `MemRead(a, 4)` (R8). -/
theorem memRead_four (m : Memory) (a : BitVec 6) :
    m.memRead a 4 = wordOfBytes (m.read a) (m.read (a + 1)) (m.read (a + 2)) (m.read (a + 3)) := by
  have first : m.memRead a 0 ++ m.read (a + 0#6) = m.read a := by
    rw [BitVec.add_zero]
    exact BitVec.zero_width_append _ _
  exact congrArg (fun b : Byte => b ++ m.read (a + 1) ++ m.read (a + 2) ++ m.read (a + 3)) first

/-- The words of the block in the buffer, byte by byte (R123 step 1). -/
theorem blockWords_eq (buf : Memory) :
    blockWords buf = (List.range 16).map fun t =>
      wordOfBytes (buf.read (BitVec.ofNat 6 (4 * t))) (buf.read (BitVec.ofNat 6 (4 * t + 1)))
        (buf.read (BitVec.ofNat 6 (4 * t + 2))) (buf.read (BitVec.ofNat 6 (4 * t + 3))) := by
  refine List.map_congr_left fun t _ => ?_
  rw [memRead_four]
  simp only [BitVec.ofNat_add]
  rfl

/-- Step 4 of R123. -/
def addWorking (h : Vector Word 8) (v : Working) : Vector Word 8 :=
  #v[h[0] + v.a, h[1] + v.b, h[2] + v.c, h[3] + v.d, h[4] + v.e, h[5] + v.f, h[6] + v.g, h[7] + v.h]

/-- Steps 2 to 4 of R123 with the rounds counted. -/
theorem compressWords_eq {block : List Word} (sixteen : block.length = 16) (h : Vector Word 8) :
    compressWords h block = addWorking h (workingAt h block 64) := congrArg (addWorking h) (foldl_shaRound sixteen h)

/-! R120 on Lean's rotation. -/

theorem bsig0_eq (x : Word) : bsig0 x = x.rotateRight 2 ^^^ x.rotateRight 13 ^^^ x.rotateRight 22 := by
  simp only [bsig0, rotr32_eq_rotateRight, Nat.reduceLT]

theorem bsig1_eq (x : Word) : bsig1 x = x.rotateRight 6 ^^^ x.rotateRight 11 ^^^ x.rotateRight 25 := by
  simp only [bsig1, rotr32_eq_rotateRight, Nat.reduceLT]

theorem ssig0_eq (x : Word) : ssig0 x = x.rotateRight 7 ^^^ x.rotateRight 18 ^^^ (x >>> 3) := by
  simp only [ssig0, rotr32_eq_rotateRight, Nat.reduceLT]

theorem ssig1_eq (x : Word) : ssig1 x = x.rotateRight 17 ^^^ x.rotateRight 19 ^^^ (x >>> 10) := by
  simp only [ssig1, rotr32_eq_rotateRight, Nat.reduceLT]

/-- Settles O58: the sequences are `scheduleWord` and the fields of `workingAt`. -/
theorem compressionWrittenOut : Obligations.CompressionWrittenOut := by
  intro H block
  have sixteen : (List.ofFn block).length = 16 := List.length_ofFn
  have words : ∀ t : Fin 16, scheduleWord (List.ofFn block) t = block t := fun t => by
    rw [scheduleWord_of_lt _ t.isLt, List.getD_eq_getElem _ _ (by simp), List.getElem_ofFn]
  have compressed := compressWords_eq sixteen H
  let v := workingAt H (List.ofFn block)
  refine ⟨scheduleWord (List.ofFn block), fun t => (v t).a, fun t => (v t).b, fun t => (v t).c, fun t => (v t).d,
    fun t => (v t).e, fun t => (v t).f, fun t => (v t).g, fun t => (v t).h, words, fun t sixteen _ => ?_,
    ⟨rfl, rfl, rfl, rfl, rfl, rfl, rfl, rfl⟩, fun t ht => ?_, ?_⟩
  · rw [scheduleWord, if_neg (by omega), ssig0_eq, ssig1_eq]
  · have constant := shaK_getD ht
    refine ⟨?_, rfl, rfl, rfl, ?_, rfl, rfl, rfl⟩
    all_goals simp only [v, workingAt, shaRound, shaCh, shaMaj, bsig0_eq, bsig1_eq, constant, shaKLines]
  · refine ⟨compressed, fun buf held => ?_⟩
    have inBuffer : blockWords buf = List.ofFn block := by
      rw [blockWords_eq, List.ofFn_eq_map, ← List.map_coe_finRange_eq_range, List.map_map]
      exact List.map_congr_left fun t _ => held t
    rw [compress, inBuffer]
    exact compressed

/-! The buffer as a list of bytes (R66). -/

/-- The bytes `buf[0..n-1]`. -/
def Memory.firstBytes (m : Memory) (n : Nat) : List Byte := (List.range n).map fun j => m.read (BitVec.ofNat 6 j)

@[simp] theorem Memory.firstBytes_length (m : Memory) (n : Nat) : (m.firstBytes n).length = n := by simp [firstBytes]

@[simp] theorem Memory.firstBytes_zero (m : Memory) : m.firstBytes 0 = [] := rfl

theorem Memory.firstBytes_getD (m : Memory) {n j : Nat} (h : j < n) :
    (m.firstBytes n).getD j 0 = m.read (BitVec.ofNat 6 j) := by
  rw [List.getD_eq_getElem _ _ (by simpa using h)]
  simp [firstBytes]

theorem Memory.firstBytes_getD_toNat (m : Memory) (a : BitVec 6) : (m.firstBytes 64).getD a.toNat 0 = m.read a := by
  rw [firstBytes_getD m a.isLt, BitVec.ofNat_toNat, BitVec.setWidth_eq]

/-- A write just above the bytes appends its byte. -/
theorem Memory.firstBytes_write {m : Memory} (wf : Memory.wf m) (a : BitVec 6) (v : Byte) :
    (m.write a v).firstBytes (a.toNat + 1) = m.firstBytes a.toNat ++ [v] := by
  have below : ∀ j ∈ List.range a.toNat, (m.write a v).read (BitVec.ofNat 6 j) = m.read (BitVec.ofNat 6 j) := by
    intro j hj
    have other : BitVec.ofNat 6 j ≠ a := by have := List.mem_range.1 hj; bv_omega
    rw [Memory.read_write m wf, if_neg other]
  have written : (m.write a v).read (BitVec.ofNat 6 a.toNat) = v := by
    rw [BitVec.ofNat_toNat, BitVec.setWidth_eq, Memory.read_write m wf, if_pos rfl]
  rw [firstBytes, List.range_succ, List.map_append, List.map_congr_left below, List.map_singleton, written]
  rfl

/-- Writes at rising addresses append their bytes. -/
theorem Memory.firstBytes_foldl_write {m : Memory} (wf : Memory.wf m) {n count : Nat} (inside : n + count ≤ 64)
    (v : Nat → Byte) :
    ((List.range count).foldl (fun m i => m.write (BitVec.ofNat 6 (n + i)) (v i)) m).firstBytes (n + count)
      = m.firstBytes n ++ (List.range count).map v := by
  induction count with
  | zero => simp
  | succ count ih =>
    have wf' := Memory.wf_foldl wf (List.range count) (fun i => BitVec.ofNat 6 (n + i)) v
    have written := firstBytes_write wf' (BitVec.ofNat 6 (n + count)) (v count)
    rw [BitVec.toNat_ofNat, Nat.mod_eq_of_lt (by omega), ih (by omega)] at written
    rw [List.range_succ, List.foldl_concat, ← Nat.add_assoc, written, List.map_append, List.map_singleton,
      List.append_assoc]

/-- `buf[j] <- 0x00` for `j = n .. last - 1` appends zeros (R126). -/
theorem Memory.firstBytes_zeros {m : Memory} (wf : Memory.wf m) {n last : Nat} (le : n ≤ last) (inside : last ≤ 64) :
    (m.zero n last).firstBytes last = m.firstBytes n ++ List.replicate (last - n) 0 := by
  have zeros : m.zero n last = (List.range (last - n)).foldl (fun m i => m.write (BitVec.ofNat 6 (n + i)) 0) m := by
    rw [zero, List.range'_eq_map_range, List.foldl_map]
  have appended := firstBytes_foldl_write wf (n := n) (count := last - n) (by omega) fun _ => 0
  rw [Nat.add_sub_cancel' le] at appended
  rw [zeros, appended, List.map_const', List.length_range]

/-- A field of a field. -/
theorem extractLsb'_extractLsb' {w a m b n : Nat} (v : BitVec w) (inside : b + n ≤ m) :
    (v.extractLsb' a m).extractLsb' b n = v.extractLsb' (a + b) n := by
  refine BitVec.eq_of_getLsbD_eq fun i hi => ?_
  have inField : b + i < m := by omega
  simp [inField, Nat.add_assoc]

/-- `MemWrite(56, 8, v)` appends the eight bytes of `v`, the most significant first (R68). -/
theorem Memory.firstBytes_memWrite_length {m : Memory} (wf : Memory.wf m) (v : BitVec 64) :
    (m.memWrite 56 8 v).firstBytes 64
      = m.firstBytes 56 ++ (bigEndian32 (v.extractLsb' 32 32) ++ bigEndian32 (v.extractLsb' 0 32)) := by
  have appended := firstBytes_foldl_write wf (n := 56) (count := 8) (by decide) fun i => v.extractLsb' (8 * (8 - 1 - i)) 8
  have bytes : (List.range 8).map (fun i => v.extractLsb' (8 * (8 - 1 - i)) 8)
      = bigEndian32 (v.extractLsb' 32 32) ++ bigEndian32 (v.extractLsb' 0 32) := by
    simp [List.range_succ, bigEndian32, extractLsb'_extractLsb']
  rw [← bytes, ← appended]
  rfl

/-- The block in the buffer as words, from its bytes. -/
theorem blockWords_eq_wordsOfBytes (buf : Memory) : blockWords buf = wordsOfBytes (buf.firstBytes 64) := by
  rw [blockWords_eq, wordsOfBytes, Memory.firstBytes_length]
  refine List.map_congr_left fun t ht => ?_
  have inside : t < 16 := List.mem_range.1 ht
  simp only [byteAt]
  iterate 4 rw [Memory.firstBytes_getD buf (by omega)]

/-! Blocks of a byte list (R126, R128). -/

/-- The first 64 bytes make the first block. -/
theorem messageBlocks_append_block {block : List Byte} (whole : block.length = 64) (rest : List Byte) :
    messageBlocks (block ++ rest) = wordsOfBytes block :: messageBlocks rest := by
  have blocks : (block ++ rest).length / 64 = rest.length / 64 + 1 := by rw [List.length_append]; omega
  have first : (block ++ rest).take 64 = block := List.take_left' whole
  have later : ∀ j, (block ++ rest).drop (64 * (j + 1)) = rest.drop (64 * j) := fun j => by
    rw [Nat.mul_succ, Nat.add_comm, ← List.drop_drop, List.drop_left' whole]
  rw [messageBlocks, blocks, List.range_succ_eq_map, List.map_cons, List.map_map]
  simp only [Function.comp_def, Nat.mul_zero, List.drop_zero, first, Nat.succ_eq_add_one, later]
  rfl

theorem messageBlocks_of_length {block : List Byte} (whole : block.length = 64) :
    messageBlocks block = [wordsOfBytes block] := by
  have one := messageBlocks_append_block whole []
  rwa [List.append_nil] at one

/-- Whole blocks come before the blocks of the rest. -/
theorem messageBlocks_append {blocks : List Byte} (whole : 64 ∣ blocks.length) (rest : List Byte) :
    messageBlocks (blocks ++ rest) = messageBlocks blocks ++ messageBlocks rest := by
  obtain ⟨n, whole⟩ := whole
  induction n generalizing blocks with
  | zero =>
    have none : blocks = [] := List.eq_nil_of_length_eq_zero whole
    rw [none]
    rfl
  | succ n ih =>
    have first : (blocks.take 64).length = 64 := by rw [List.length_take]; omega
    have later : (blocks.drop 64).length = 64 * n := by rw [List.length_drop]; omega
    rw [← List.take_append_drop 64 blocks, List.append_assoc, messageBlocks_append_block first,
      messageBlocks_append_block first, ih later, List.cons_append]

/-! `SHA_FINAL` (R126). -/

/-- The length in bits of a message of `len` bytes, most significant byte first (R68, R126). -/
def lengthBytes (len : Nat) : List Byte :=
  let bits : BitVec 64 := BitVec.ofNat 64 (8 * len)
  bigEndian32 (bits.extractLsb' 32 32) ++ bigEndian32 (bits.extractLsb' 0 32)

/-- The padding of a message of `len` bytes, `n` of them after its last whole block (R126). -/
def padding (n len : Nat) : List Byte := [0x80] ++ List.replicate (paddingZeros n) 0x00 ++ lengthBytes len

@[simp] theorem lengthBytes_length (len : Nat) : (lengthBytes len).length = 8 := rfl

@[simp] theorem padding_length (n len : Nat) : (padding n len).length = paddingZeros n + 9 := by simp [padding]

theorem paddingZeros_of_le {n : Nat} (h : n ≤ 55) : paddingZeros n = 56 - (n + 1) := by rw [paddingZeros]; omega

theorem paddingZeros_of_gt {n : Nat} (h : 55 < n) (inside : n < 64) : paddingZeros n = 64 - (n + 1) + 56 := by
  rw [paddingZeros]; omega

theorem bitLength_eq (u : ShaUnit) : bitLength u = BitVec.ofNat 64 (8 * u.len.toNat) := by
  rw [bitLength, Nat.mul_comm, BitVec.ofNat_mul, BitVec.ofNat_toNat]
  rfl

/-- The last block: what stands below `f`, zeros, the length. -/
theorem closeBlock_firstBytes {buf : Memory} (wf : Memory.wf buf) (u : ShaUnit) {f : Nat} (le : f ≤ 56) (h : Vector Word 8) :
    (closeBlock u f h buf).buf.firstBytes 64
      = buf.firstBytes f ++ List.replicate (56 - f) 0 ++ lengthBytes u.len.toNat := by
  rw [closeBlock_buf, Memory.firstBytes_memWrite_length (Memory.wf_zero wf f 56), Memory.firstBytes_zeros wf le (by decide),
    bitLength_eq, lengthBytes]

/-- Step 6.3 of R126: the last compression is that of the block left in the buffer. -/
theorem closeBlock_h (u : ShaUnit) (f : Nat) (h : Vector Word 8) (buf : Memory) :
    (closeBlock u f h buf).h = compressWords h (wordsOfBytes ((closeBlock u f h buf).buf.firstBytes 64)) := by
  rw [← blockWords_eq_wordsOfBytes]
  rfl

/-- What the unit holds of its message beyond the compressed blocks, padded (R126). -/
def ShaUnit.padded (u : ShaUnit) : List Byte := u.buf.firstBytes u.fill.toNat ++ padding u.fill.toNat u.len.toNat

/-- The buffer after R126 steps 4 and 5. -/
def ShaUnit.marked (u : ShaUnit) : Memory := u.buf.write u.fill 0x80

/-- The buffer that R126 compresses first where the length does not fit into it. -/
def ShaUnit.filled (u : ShaUnit) : Memory := u.marked.zero (u.fill.toNat + 1) 64

/-- At most 55 bytes: the length still fits into their block. -/
theorem finalize_of_le {u : ShaUnit} (h : u.fill.toNat ≤ 55) :
    finalize u = closeBlock u (u.fill.toNat + 1) u.h u.marked := by
  rw [finalize, if_neg (by omega), Memory.memWrite_one, ShaUnit.marked]

/-- At least 56 bytes: their block is filled with zeros and compressed, and the length comes in one more. -/
theorem finalize_of_gt {u : ShaUnit} (h : 55 < u.fill.toNat) :
    finalize u = closeBlock u 0 (compress u.h u.filled) u.filled := by
  rw [finalize, if_pos (by omega), Memory.memWrite_one, ShaUnit.filled, ShaUnit.marked]

theorem ShaUnit.wf_marked {u : ShaUnit} (wf : Memory.wf u.buf) : Memory.wf u.marked := Memory.wf_write wf u.fill 0x80

theorem ShaUnit.wf_filled {u : ShaUnit} (wf : Memory.wf u.buf) : Memory.wf u.filled := Memory.wf_zero (wf_marked wf) _ 64

theorem ShaUnit.marked_firstBytes {u : ShaUnit} (wf : Memory.wf u.buf) :
    u.marked.firstBytes (u.fill.toNat + 1) = u.buf.firstBytes u.fill.toNat ++ [0x80] :=
  Memory.firstBytes_write wf u.fill 0x80

theorem ShaUnit.filled_firstBytes {u : ShaUnit} (wf : Memory.wf u.buf) :
    u.filled.firstBytes 64
      = u.buf.firstBytes u.fill.toNat ++ [0x80] ++ List.replicate (64 - (u.fill.toNat + 1)) 0 := by
  rw [filled, Memory.firstBytes_zeros (wf_marked wf) u.fill.isLt (by decide), marked_firstBytes wf]

/-- From `u` to `v` the padded bytes are compressed block by block, and the last block is left in the buffer (R126). -/
structure Finishes (u v : ShaUnit) (padded : List Byte) : Prop where
  h : v.h = (messageBlocks padded).foldl compressWords u.h
  buf : v.buf.firstBytes 64 = padded.drop (padded.length - 64)

/-- One compression (R126). -/
theorem finalize_finishes_of_le {u : ShaUnit} (wf : Memory.wf u.buf) (small : u.fill.toNat ≤ 55) :
    Finishes u (finalize u) u.padded := by
  have block : (finalize u).buf.firstBytes 64 = u.padded := by
    rw [finalize_of_le small, closeBlock_firstBytes (ShaUnit.wf_marked wf) u (by omega), ShaUnit.marked_firstBytes wf,
      ShaUnit.padded, padding, paddingZeros_of_le small]
    simp only [List.append_assoc]
  have whole : u.padded.length = 64 := by rw [← block, Memory.firstBytes_length]
  constructor
  · rw [messageBlocks_of_length whole, ← block, finalize_of_le small, closeBlock_h]
    rfl
  · rw [block, whole, Nat.sub_self, List.drop_zero]

/-- Two compressions (R126). -/
theorem finalize_finishes_of_gt {u : ShaUnit} (wf : Memory.wf u.buf) (large : 55 < u.fill.toNat) :
    Finishes u (finalize u) u.padded := by
  have last : (finalize u).buf.firstBytes 64 = List.replicate 56 0 ++ lengthBytes u.len.toNat := by
    rw [finalize_of_gt large, closeBlock_firstBytes (ShaUnit.wf_filled wf) u (by decide),
      Memory.firstBytes_zero, List.nil_append]
  have blocks : u.padded = u.filled.firstBytes 64 ++ (finalize u).buf.firstBytes 64 := by
    rw [ShaUnit.filled_firstBytes wf, last, ShaUnit.padded, padding, paddingZeros_of_gt large u.fill.isLt,
      List.replicate_add]
    simp only [List.append_assoc]
  constructor
  · rw [blocks, messageBlocks_append_block (Memory.firstBytes_length ..),
      messageBlocks_of_length (Memory.firstBytes_length ..), ← blockWords_eq_wordsOfBytes, finalize_of_gt large, closeBlock_h]
    rfl
  · rw [blocks, List.drop_left' (by simp)]

/-- What `SHA_FINAL` does, once. -/
theorem finalize_finishes {u : ShaUnit} (wf : Memory.wf u.buf) : Finishes u (finalize u) u.padded :=
  (le_or_gt u.fill.toNat 55).elim (finalize_finishes_of_le wf) (finalize_finishes_of_gt wf)

theorem padded_length (u : ShaUnit) : u.padded.length = if u.fill.toNat ≤ 55 then 64 else 128 := by
  have inside := u.fill.isLt
  rw [ShaUnit.padded, List.length_append, Memory.firstBytes_length, padding_length, paddingZeros]
  split <;> omega

/-- Settles O18. -/
theorem shaFinalPadsAndFinishes : Obligations.ShaFinalPadsAndFinishes := by
  refine ⟨rfl, fun r s wf => ⟨fun reserved => ?_, ?_, ?_⟩⟩
  · exact exec_of_illFormed (i := .shaFinal r) (beq_false_of_ne reserved) s
  · rintro rfl finished
    exact exec_of_outOfSequence rfl rfl finished
  · rintro rfl absorbing
    refine ⟨finalize s.sha, ?_⟩
    intro f bits padded
    have padded_eq : padded = s.sha.padded := by
      simp only [padded, ShaUnit.padded, padding, lengthBytes, Memory.firstBytes, List.append_assoc, f, bits]
    obtain ⟨h, buf⟩ := finalize_finishes wf
    rw [padded_eq]
    refine ⟨exec_shaFinal absorbing, ?_, fun k hk => ?_, padded_length s.sha, h, fun a => ?_, finalize_fill _,
      finalize_done _, finalize_len _⟩
    · rw [paddingZeros]; omega
    · rw [paddingZeros]; omega
    · rw [← Memory.firstBytes_getD_toNat, buf, List.getD_eq_getElem?_getD, List.getElem?_drop, List.getD_eq_getElem?_getD]

/-! A whole message (R128). -/

theorem paddedMessage_eq (m : List Byte) : paddedMessage m = m ++ padding m.length m.length := by
  simp only [paddedMessage, padding, lengthBytes, List.append_assoc]

theorem messageBlocks_paddedMessage_length (m : List Byte) :
    (messageBlocks (paddedMessage m)).length = (m.length + 8) / 64 + 1 := by
  rw [messageBlocks, List.length_map, List.length_range, paddedMessage_eq, List.length_append, padding_length, paddingZeros]
  omega

/-- The unit has taken the message `blocks ++ rest`: the whole blocks are compressed, the rest stands in the buffer (R30
item 1, R125). -/
structure Absorbed (blocks rest : List Byte) (u : ShaUnit) : Prop where
  whole : 64 ∣ blocks.length
  fill : u.fill.toNat = rest.length
  wf : Memory.wf u.buf
  buf : u.buf.firstBytes rest.length = rest
  h : u.h = (messageBlocks blocks).foldl compressWords shaIV
  done : u.done = false

theorem absorbed_reset : Absorbed [] [] .reset := ⟨dvd_zero 64, rfl, by decide, rfl, rfl, rfl⟩

/-- One more byte joins the rest, which becomes a block when it is full. -/
theorem Absorbed.absorbByte {blocks rest : List Byte} {u : ShaUnit} (absorbed : Absorbed blocks rest u) (byte : Byte) :
    ∃ blocks' rest', blocks' ++ rest' = blocks ++ rest ++ [byte] ∧ Absorbed blocks' rest' (absorbByte byte u) := by
  obtain ⟨whole, fill, wf, buf, h, done⟩ := absorbed
  have written := Memory.firstBytes_write wf u.fill byte
  rw [fill, buf] at written
  have wf' := Memory.wf_write wf u.fill byte
  obtain ⟨full, result⟩ | ⟨notFull, result⟩ := absorbByte_cases byte u
  · have sixtyThree : rest.length = 63 := by rw [← fill, full]; rfl
    rw [sixtyThree] at written
    have block : (rest ++ [byte]).length = 64 := by rw [List.length_append, sixtyThree]; rfl
    refine ⟨blocks ++ (rest ++ [byte]), [], by simp, ?_⟩
    rw [result]
    refine ⟨?_, rfl, wf', rfl, ?_, done⟩
    · rw [List.length_append, block]
      exact dvd_add whole (dvd_refl 64)
    · rw [messageBlocks_append whole, messageBlocks_of_length block, List.foldl_concat, ← h, ← written,
        ← blockWords_eq_wordsOfBytes, compress]
  · refine ⟨blocks, rest ++ [byte], by simp, ?_⟩
    rw [result]
    refine ⟨whole, ?_, wf', by simpa using written, h, done⟩
    simp only [List.length_append, List.length_singleton, ← fill]
    bv_omega

/-- The unit after a message. -/
def absorbAll (m : List Byte) : ShaUnit := m.foldl (fun u byte => absorbByte byte u) .reset

theorem absorbAll_concat (m : List Byte) (byte : Byte) : absorbAll (m ++ [byte]) = absorbByte byte (absorbAll m) :=
  List.foldl_concat ..

theorem absorbed_absorbAll (m : List Byte) : ∃ blocks rest, blocks ++ rest = m ∧ Absorbed blocks rest (absorbAll m) := by
  induction m using List.reverseRecOn with
  | nil => exact ⟨[], [], rfl, absorbed_reset⟩
  | append_singleton m byte ih =>
    obtain ⟨blocks, rest, rfl, absorbed⟩ := ih
    rw [absorbAll_concat]
    exact absorbed.absorbByte byte

theorem absorbAll_len {m : List Byte} (h : m.length ≤ 2 ^ 61 - 1) : (absorbAll m).len.toNat = m.length := by
  induction m using List.reverseRecOn with
  | nil => rfl
  | append_singleton m byte ih =>
    rw [List.length_append, List.length_singleton] at h ⊢
    rw [absorbAll_concat, absorbByte_len, BitVec.toNat_add, ih (by omega)]
    exact Nat.mod_eq_of_lt (by simp; omega)

/-- The digest of a message by the machine's own steps (R128). -/
theorem finalize_absorbAll_h {m : List Byte} (h : m.length ≤ 2 ^ 61 - 1) : (finalize (absorbAll m)).h = sha256 m := by
  obtain ⟨blocks, rest, rfl, absorbed⟩ := absorbed_absorbAll m
  have whole := absorbed.whole
  have zeros : paddingZeros (blocks ++ rest).length = paddingZeros rest.length := by
    rw [List.length_append, paddingZeros, paddingZeros]; omega
  have padded : paddedMessage (blocks ++ rest) = blocks ++ (absorbAll (blocks ++ rest)).padded := by
    rw [paddedMessage_eq, ShaUnit.padded, absorbed.fill, absorbed.buf, absorbAll_len h, padding, zeros, ← padding,
      List.append_assoc]
  rw [(finalize_finishes absorbed.wf).h, sha256, padded, messageBlocks_append whole, List.foldl_append, ← absorbed.h]

/-- `SHA_MSG` takes every byte and answers `OK` to each, up to the length limit (R125). -/
theorem runProgram_shaMsg (bytes : List Byte) {s : State} (absorbing : s.sha.done = false)
    (room : s.sha.len.toNat + bytes.length ≤ 2 ^ 61 - 1) :
    runProgram (shaMsg bytes) s = .next
      { s with
        sha := bytes.foldl (fun u byte => absorbByte byte u) s.sha
        responses := s.responses ++ List.replicate bytes.length (responseWord 0 0) } := by
  induction bytes generalizing s with
  | nil => simp [shaMsg, runProgram]
  | cons byte bytes ih =>
    rw [List.length_cons] at room
    rw [shaMsg, List.map_cons, runProgram_cons (exec_shaUpdate absorbing (by omega) byte), ← shaMsg, ih]
    · simp [okAnswer, List.replicate_succ]
    · simpa [okAnswer] using absorbing
    · simp only [okAnswer, absorbByte_len]
      bv_omega

theorem absorbAll_done (m : List Byte) : (absorbAll m).done = false := by
  obtain ⟨_, _, _, absorbed⟩ := absorbed_absorbAll m
  exact absorbed.done

/-- A message and `SHA_FINAL`, from the unit as reset and `SHA_INIT` leave it. -/
theorem runProgram_message {m : List Byte} {s : State} (start : s.sha = .reset) (room : m.length ≤ 2 ^ 61 - 1) :
    runProgram (shaMsg m ++ [.shaFinal 0]) s = .next
      { s with
        sha := finalize (absorbAll m)
        responses := s.responses ++ List.replicate (m.length + 1) (responseWord 0 0) } := by
  have absorbing : s.sha.done = false := by rw [start]; rfl
  have empty : s.sha.len.toNat = 0 := by rw [start]; rfl
  rw [runProgram_append _ (runProgram_shaMsg m absorbing (by omega)), start, runProgram_cons (exec_shaFinal (absorbAll_done m))]
  simp [runProgram, okAnswer, List.replicate_succ', absorbAll]

/-- `SHA_HASH` does the same from every state. -/
theorem runProgram_shaHash {m : List Byte} (room : m.length ≤ 2 ^ 61 - 1) (s : State) :
    runProgram (shaHash m) s = .next
      { s with
        sha := finalize (absorbAll m)
        responses := s.responses ++ List.replicate (m.length + 2) (responseWord 0 0) } := by
  rw [shaHash, List.append_assoc, List.singleton_append, runProgram_cons (exec_shaInit s), runProgram_message rfl room]
  simp [okAnswer, List.replicate_succ]

theorem shaMsg_length (m : List Byte) : (shaMsg m).length = m.length := List.length_map _

theorem shaHash_length (m : List Byte) : (shaHash m).length = m.length + 2 := by simp [shaHash, shaMsg_length]

/-- Settles O21. -/
theorem hashSequenceComputesSha256 : Obligations.HashSequenceComputesSha256 := by
  intro m s room
  have digest := finalize_absorbAll_h room
  refine ⟨messageBlocks_paddedMessage_length m, ⟨_, ?_, digest, finalize_done _, finalize_fill _, ?_⟩,
    fun start => ⟨_, ?_, digest, finalize_done _⟩⟩
  · have run := (run_issue (shaHash m) s).trans (runProgram_shaHash room s)
    rwa [shaHash_length] at run
  · rw [finalize_len, absorbAll_len room]
  · have run := (run_issue _ s).trans (runProgram_message start room)
    rwa [List.length_append, shaMsg_length] at run

end Sys2Proof.Machine

/-! PROOFS. The obligations of 41_xorshift128plus.md: the XS unit's commands (R151 to R153, R156, R158 to R161), the values a
draw is scaled to (R158 to R160, R163), and the generator's update as a linear bijection of period 168 (R164, R165). -/

namespace Sys2Proof.Machine

/-! The commands of the XS unit (R150 to R156). -/

theorem exec_xsInit (s : State) : exec (.xsInit 0) s = .next (okAnswer 0 { s with xs := xsBeginSeeding s.xs }) := rfl

theorem exec_xsSeed {s : State} (seeding : s.xs.st = .seeding) (w : Word) :
    exec (.xsSeed w) s = .next (okAnswer 0 { s with xs := xsTakeSeed w s.xs }) := runCommand_ok (by simp [seeding]) _ _ _

theorem exec_xsStart {s : State} (seeding : s.xs.st = .seeding) :
    exec (.xsStart 0) s = .next (okAnswer 0 { s with xs := xsWarmUp s.xs }) :=
  runCommand_ok (by simp [reservedSet, seeding]) _ _ _

theorem xsTakeSeed_first {u : XsUnit} (first : u.cnt = 0) (w : Word) :
    xsTakeSeed w u = { u with s0 := if w = 0 then xsFallback0 else w, cnt := 1 } := by rw [xsTakeSeed, first]

theorem xsTakeSeed_second {u : XsUnit} (second : u.cnt = 1) (w : Word) :
    xsTakeSeed w u = { u with s1 := if w = 0 then xsFallback1 else w, cnt := 2 } := by rw [xsTakeSeed, second]

theorem xsTakeSeed_later {u : XsUnit} (later : u.cnt = 2) (w : Word) :
    xsTakeSeed w u = drawState { u with s0 := u.s0 ^^^ w } := by rw [xsTakeSeed, later]

/-- A drawing command that passes its checks performs one draw and answers what it makes of the drawn value (R161). -/
theorem exec_draw {i : Instr} {s : State} (draw : isDraw i = true) (ready : s.xs.st = .ready) :
    exec i s = .next (okAnswer (drawResult i (drawValue s.xs)) { s with xs := drawState s.xs }) := by
  cases i with
  | xsNext r =>
    have unreserved : r = 0 := beq_iff_eq.1 draw
    exact runCommand_ok (by simp [reservedSet_eq_false.2 unreserved, ready]) _ _ _
  | xsPick length =>
    have nonzero : (length == 0) = false := beq_false_of_ne (bne_iff_ne.1 draw)
    exact runCommand_ok (by simp only [firstError_cons, nonzero, ready]; rfl) _ _ _
  | xsInt | xsBool => exact runCommand_ok (by simp [ready]) _ _ _
  | _ => exact absurd draw Bool.false_ne_true

/-- A draw with R155 written out, in the reading the machine uses. -/
theorem drawState_eq (u : XsUnit) :
    drawState u =
      { u with s0 := u.s1, s1 := u.s0 ^^^ (u.s0 <<< 23) ^^^ (u.s0 >>> 17) ^^^ u.s1 ^^^ (u.s1 >>> 26) } := rfl

/-- The drawn value is the sum of the new state words (R155 step 4). -/
theorem drawValue_eq (u : XsUnit) : drawValue u = (drawState u).s0 + (drawState u).s1 := rfl

/-- Settles O22. -/
theorem xsInitLoadsFallbacks : Obligations.XsInitLoadsFallbacks :=
  ⟨rfl, fun s => ⟨exec_xsInit s, fun r reserved => exec_of_illFormed (i := .xsInit r) (beq_false_of_ne reserved) s⟩⟩

/-- Settles O23. -/
theorem xsSeedTakesWord : Obligations.XsSeedTakesWord := by
  refine ⟨rfl, fun w s => ⟨fun unready => ?_, fun seeding first => ?_, fun seeding second => ?_, fun seeding later => ?_⟩⟩
  · exact exec_of_outOfSequence (i := .xsSeed w) rfl rfl (bne_iff_ne.2 unready)
  · rw [exec_xsSeed seeding, xsTakeSeed_first first]
  · rw [exec_xsSeed seeding, xsTakeSeed_second second]
  · rw [exec_xsSeed seeding, xsTakeSeed_later later, drawState_eq]

/-- Settles O24: ten draws of the unit are ten updates of its state words. -/
theorem xsStartWarmsUp : Obligations.XsStartWarmsUp := by
  refine ⟨rfl, fun r s => ⟨fun reserved => ?_, ?_, ?_⟩⟩
  · exact exec_of_illFormed (i := .xsStart r) (beq_false_of_ne reserved) s
  · rintro rfl unready
    exact exec_of_outOfSequence (i := .xsStart 0) rfl rfl (bne_iff_ne.2 unready)
  · rintro rfl seeding
    rw [exec_xsStart seeding, xsWarmUp, iterate_drawState]
    rfl

/-- Settles O25. -/
theorem xsNextDrawsOnce : Obligations.XsNextDrawsOnce := by
  refine ⟨rfl, fun r s => ⟨fun reserved => ?_, ?_, ?_⟩⟩
  · exact exec_of_illFormed (i := .xsNext r) (beq_false_of_ne reserved) s
  · rintro rfl unready
    exact exec_of_outOfSequence (i := .xsNext 0) rfl rfl (bne_iff_ne.2 unready)
  · rintro rfl ready
    exact exec_draw (i := .xsNext 0) rfl ready

/-! One draw for each drawing command (R161). -/

/-- The value of the `n`-th draw from the state words `p` (R155 step 4). -/
def nthDraw (p : Word × Word) (n : Nat) : Word :=
  (Nat.iterate (advance xsMix) n p).1 + (Nat.iterate (advance xsMix) n p).2

/-- The `n + 1`-st draw is the `n`-th after the first. -/
theorem nthDraw_succ (p : Word × Word) (n : Nat) : nthDraw p (n + 1) = nthDraw (advance xsMix p) n := rfl

theorem drawValue_eq_nthDraw (u : XsUnit) : drawValue u = nthDraw u.pair 1 := rfl

/-- The responses to a program of drawing commands that starts at the state words `p`. -/
def drawResponses (program : List Instr) (p : Word × Word) : List ResponseWord :=
  program.mapIdx fun k i => responseWord 0 (drawResult i (nthDraw p (k + 1)))

theorem drawResponses_cons (i : Instr) (rest : List Instr) (u : XsUnit) :
    drawResponses (i :: rest) u.pair =
      responseWord 0 (drawResult i (drawValue u)) :: drawResponses rest (drawState u).pair := by
  rw [drawResponses, List.mapIdx_cons, ← drawValue_eq_nthDraw]
  rfl

theorem runProgram_draws {program : List Instr} {s : State} (draws : ∀ i ∈ program, isDraw i = true)
    (ready : s.xs.st = .ready) :
    runProgram program s = .next
      { s with
        xs := Nat.iterate drawState program.length s.xs
        responses := s.responses ++ drawResponses program s.xs.pair } := by
  induction program generalizing s with
  | nil => simp [runProgram, drawResponses]
  | cons i rest ih =>
    have first : isDraw i = true := draws i List.mem_cons_self
    rw [runProgram_cons (exec_draw first ready), ih (fun j hj => draws j (List.mem_cons_of_mem i hj))]
    · simp [okAnswer, drawResponses_cons]
    · exact ready

/-- Settles O34. -/
theorem oneDrawPerCommand : Obligations.OneDrawPerCommand := by
  intro program s draws ready
  rw [runProgram_draws draws ready, iterate_drawState]
  rfl

/-! A draw scaled to a range of integers (R158). -/

/-- In a range that rises, the offset `floor(U * d / 2^32)` is at least 0 and below its width `d`. -/
theorem scaled_of_pos (u : Word) {d : Int} (pos : 0 < d) :
    0 ≤ Int.fdiv (u.toNat * d) (2 ^ 32) ∧ Int.fdiv (u.toNat * d) (2 ^ 32) < d := by
  have below : (u.toNat : Int) < 2 ^ 32 := mod_cast u.isLt
  rw [Int.fdiv_eq_ediv_of_nonneg _ (by decide)]
  exact ⟨Int.ediv_nonneg (by positivity) (by decide), Int.ediv_lt_of_lt_mul (by decide) (by nlinarith)⟩

/-- In a range that falls, the offset is between its width `d` and 0; the floor is 0 only where nothing is rounded down. -/
theorem scaled_of_neg (u : Word) {d : Int} (neg : d < 0) :
    d ≤ Int.fdiv (u.toNat * d) (2 ^ 32) ∧ Int.fdiv (u.toNat * d) (2 ^ 32) ≤ 0 ∧
      (Int.fdiv (u.toNat * d) (2 ^ 32) = 0 ↔ u = 0) := by
  have below : (u.toNat : Int) < 2 ^ 32 := mod_cast u.isLt
  have nonpos : (u.toNat : Int) * d ≤ 0 := mul_nonpos_of_nonneg_of_nonpos (by positivity) neg.le
  rw [Int.fdiv_eq_ediv_of_nonneg _ (by decide)]
  refine ⟨(Int.le_ediv_iff_mul_le (by decide)).2 (by nlinarith), by omega, fun zero => ?_, ?_⟩
  · have product : (u.toNat : Int) * d = 0 := by omega
    have draw : u.toNat = 0 := by simpa [neg.ne] using product
    exact BitVec.eq_of_toNat_eq draw
  · rintro rfl
    simp

/-- The scaled draw fits 16 bits signed, so the 32-bit result is exact (R158). -/
theorem toInt_scaleInt (min max : BitVec 16) (u : Word) :
    (scaleInt min.toInt max.toInt u).toInt =
      min.toInt + Int.fdiv (u.toNat * (max.toInt - min.toInt)) (2 ^ 32) := by
  have minLow := BitVec.le_toInt min
  have minHigh := BitVec.toInt_lt (x := min)
  have maxLow := BitVec.le_toInt max
  have maxHigh := BitVec.toInt_lt (x := max)
  have fits : -2 ^ 15 ≤ min.toInt + Int.fdiv (u.toNat * (max.toInt - min.toInt)) (2 ^ 32) ∧
      min.toInt + Int.fdiv (u.toNat * (max.toInt - min.toInt)) (2 ^ 32) < 2 ^ 15 := by
    rcases lt_trichotomy (max.toInt - min.toInt) 0 with neg | zero | pos
    · have := scaled_of_neg u neg
      omega
    · simp only [zero, mul_zero, Int.zero_fdiv]
      omega
    · have := scaled_of_pos u pos
      omega
  exact BitVec.toInt_ofInt_eq_self (by decide) (by omega) (by omega)

/-- Settles O26. -/
theorem xsIntScalesDraw : Obligations.XsIntScalesDraw := by
  refine ⟨rfl, rfl, fun min max s => ⟨fun unready => ?_, fun ready => ?_⟩⟩
  · exact exec_of_outOfSequence (i := .xsInt min max) rfl rfl (bne_iff_ne.2 unready)
  · refine ⟨_, exec_draw (i := .xsInt min max) rfl ready, toInt_scaleInt min max _, fun rises => ?_, fun equal => ?_,
      fun falls => ?_⟩
    all_goals rw [drawResult, toInt_scaleInt]
    · have := scaled_of_pos (drawValue s.xs) (sub_pos.2 rises)
      omega
    · simp [equal]
    · obtain ⟨low, high, zero⟩ := scaled_of_neg (drawValue s.xs) (sub_neg.2 falls)
      refine ⟨by omega, by omega, ?_⟩
      rw [add_eq_left]
      exact zero

/-! A draw scaled to an index (R159). -/

theorem scalePick_lt {length : Word} (nonzero : length ≠ 0) (u : Word) :
    u.toNat * length.toNat / 2 ^ 32 < length.toNat := by
  have pos : 0 < length.toNat := Nat.pos_of_ne_zero fun zero => nonzero (BitVec.eq_of_toNat_eq zero)
  exact Nat.div_lt_of_lt_mul (Nat.mul_lt_mul_of_pos_right u.isLt pos)

theorem toNat_scalePick {length : Word} (nonzero : length ≠ 0) (u : Word) :
    (scalePick length u).toNat = u.toNat * length.toNat / 2 ^ 32 := by
  rw [scalePick, BitVec.toNat_ofNat]
  exact Nat.mod_eq_of_lt ((scalePick_lt nonzero u).trans length.isLt)

/-- A length that is also a number of 16 bits signed is scaled as the range from 0 up to it (R159). -/
theorem scaleInt_zero_setWidth {length : Word} (small : length.toNat ≤ 32767) (u : Word) :
    scaleInt (0 : BitVec 16).toInt (length.setWidth 16).toInt u = scalePick length u := by
  have lower : (0 : BitVec 16).toInt = 0 := rfl
  have upper : (length.setWidth 16).toInt = length.toNat := by
    have low : (length.setWidth 16).toNat = length.toNat := by
      rw [BitVec.toNat_setWidth]
      omega
    rw [BitVec.toInt_eq_toNat_of_lt (by omega), low]
  have quotient : Int.fdiv (u.toNat * length.toNat) (2 ^ 32) = (u.toNat * length.toNat / 2 ^ 32 : Nat) := by
    rw [Int.fdiv_eq_ediv_of_nonneg _ (by decide)]
    push_cast
    rfl
  rw [scaleInt, scalePick, upper, lower, sub_zero, zero_add, quotient, BitVec.ofInt_natCast]

/-- Settles O27. -/
theorem xsPickScalesDraw : Obligations.XsPickScalesDraw := by
  refine ⟨rfl, fun length s => ⟨?_, fun nonzero unready => ?_, fun nonzero ready => ?_⟩⟩
  · rintro rfl
    exact exec_of_illFormed (i := .xsPick 0) rfl s
  · exact exec_of_outOfSequence (i := .xsPick length) (bne_iff_ne.2 nonzero) rfl (bne_iff_ne.2 unready)
  · have run := exec_draw (i := .xsPick length) (bne_iff_ne.2 nonzero) ready
    refine ⟨_, run, toNat_scalePick nonzero _, ?_, fun small => ?_⟩
    · rw [drawResult, toNat_scalePick nonzero]
      exact scalePick_lt nonzero _
    · rw [run, exec_draw rfl ready, drawResult, scaleInt_zero_setWidth small, drawResult]

/-! The exact fraction of a draw, ranges and probabilities of it (R157, R160, R163). -/

theorem drawFraction_nonneg (u : Word) : 0 ≤ drawFraction u := by
  rw [drawFraction]
  positivity

theorem drawFraction_lt_one (u : Word) : drawFraction u < 1 := by
  rw [drawFraction, div_lt_one (by norm_num)]
  exact_mod_cast u.isLt

/-- Adding the integer `min` and taking the floor commute (R158, R163). -/
theorem floor_rangeValue (min max : Int) (u : Word) :
    (rangeValue min max u).floor = min + Int.fdiv (u.toNat * (max - min)) (2 ^ 32) := by
  have shape : rangeValue min max u = ((u.toNat * (max - min) : Int) : Rat) / ((2 ^ 32 : Nat) : Rat) + min := by
    rw [rangeValue, drawFraction]
    push_cast
    ring
  rw [shape, Rat.floor_add_intCast, add_comm, Int.fdiv_eq_ediv_of_nonneg _ (by decide)]
  exact congrArg (min + ·) (Rat.floor_intCast_div_natCast _ _)

/-- Settles O29. -/
theorem intIsFloorOfRange : Obligations.IntIsFloorOfRange := by
  refine ⟨fun min max u => by rw [toInt_scaleInt, floor_rangeValue], fun min max u rises => ?_⟩
  have nonneg := drawFraction_nonneg u
  have ltOne := drawFraction_lt_one u
  rw [rangeValue]
  constructor
  · nlinarith
  · nlinarith

/-- An integer is below `ceil(p * 2^32)` exactly if its fraction is below `p` (R160). -/
theorem lt_ceil_iff (p : Rat) (u : Word) : u.toNat < (p * 2 ^ 32).ceil.toNat ↔ drawFraction u < p := by
  rw [Int.lt_toNat, Rat.lt_ceil_iff, drawFraction, div_lt_iff₀ (by norm_num), Int.cast_natCast]

theorem toNat_of_thresholdOf {p : Rat} {t : Word} (h : thresholdOf p = some t) : t.toNat = (p * 2 ^ 32).ceil.toNat := by
  obtain ⟨below, rfl⟩ : (p * 2 ^ 32).ceil.toNat < 2 ^ 32 ∧ BitVec.ofNat 32 (p * 2 ^ 32).ceil.toNat = t := by
    simpa [thresholdOf] using h
  exact Nat.mod_eq_of_lt below

/-- A threshold decides as the exact fraction does (R160). -/
theorem lt_thresholdOf_iff {p : Rat} {t : Word} (h : thresholdOf p = some t) (u : Word) :
    u.toNat < t.toNat ↔ drawFraction u < p := by
  rw [toNat_of_thresholdOf h, lt_ceil_iff]

/-- There is no threshold exactly if every draw's fraction is below `p` (R160, U7): the largest one decides. -/
theorem thresholdOf_eq_none_iff {p : Rat} : thresholdOf p = none ↔ ∀ u, drawFraction u < p := by
  have large : thresholdOf p = none ↔ 2 ^ 32 ≤ (p * 2 ^ 32).ceil.toNat := by
    simp only [thresholdOf, ite_eq_right_iff, reduceCtorEq, imp_false, not_lt]
  simp only [large, ← lt_ceil_iff]
  exact ⟨fun h u => u.isLt.trans_le h, fun h => h (BitVec.allOnes 32)⟩

theorem thresholdOf_of_nonpos {p : Rat} (h : p ≤ 0) : thresholdOf p = some 0 := by
  have zero : (p * 2 ^ 32).ceil.toNat = 0 := by
    refine Nat.eq_zero_of_not_pos fun pos => ?_
    exact absurd ((lt_ceil_iff p 0).1 pos) (not_lt.2 (h.trans (drawFraction_nonneg 0)))
  simp [thresholdOf, zero]

/-- Settles O28. -/
theorem xsBoolComparesDraw : Obligations.XsBoolComparesDraw := by
  refine ⟨rfl, fun p t u h => lt_thresholdOf_iff h u, fun p above => ?_,
    fun threshold s => ⟨fun unready => ?_, fun ready => ?_⟩⟩
  · exact thresholdOf_eq_none_iff.2 fun u => (drawFraction_lt_one u).trans_le above
  · exact exec_of_outOfSequence (i := .xsBool threshold) rfl rfl (bne_iff_ne.2 unready)
  · exact exec_draw (i := .xsBool threshold) rfl ready

/-- `XS_BOOL` and `XS_NEXT` are both drawing commands. -/
theorem isDraw_boolCommand (p : Rat) : isDraw (boolCommand p) = true := by
  rw [boolCommand]
  split <;> rfl

/-- What the host makes of the one command's result is the comparison with the exact fraction (R160, U7). -/
theorem boolAnswer_drawResult (p : Rat) (u : Word) :
    boolAnswer p (drawResult (boolCommand p) u) = true ↔ drawFraction u < p := by
  cases h : thresholdOf p with
  | some t => simp [boolAnswer, boolCommand, h, drawResult, belowThreshold, ← lt_thresholdOf_iff h]
  | none => simp [boolAnswer, h, thresholdOf_eq_none_iff.1 h u]

/-- Settles O59. -/
theorem probabilityTakesOneDraw : Obligations.ProbabilityTakesOneDraw :=
  ⟨fun _ => thresholdOf_of_nonpos, fun p _ ready =>
    ⟨_, exec_draw (isDraw_boolCommand p) ready, boolAnswer_drawResult p _⟩⟩

/-! The update is linear over the bits (R164). What holds of every single bit and is kept by exclusive-or holds of every word. -/

/-- A word is the exclusive-or of its bits, here taken off from bit `n - 1` downwards. -/
theorem word_induction {P : Word → Prop} (zero : P 0) (xor : ∀ x y, P x → P y → P (x ^^^ y))
    (bit : ∀ i : Fin 32, P (BitVec.twoPow 32 i)) (x : Word) : P x := by
  suffices below : ∀ n ≤ 32, ∀ x : Word, (∀ i, n ≤ i → x.getLsbD i = false) → P x from
    below 32 le_rfl x fun i => x.getLsbD_of_ge i
  intro n
  induction n with
  | zero =>
    intro _ x clear
    have x : x = 0 := BitVec.eq_of_getLsbD_eq fun i _ => by simpa using clear i (Nat.zero_le i)
    rwa [x]
  | succ n ih =>
    intro small x clear
    cases top : x.getLsbD n with
    | false =>
      refine ih (by omega) x fun i hi => ?_
      rcases hi.eq_or_lt with rfl | above
      · exact top
      · exact clear i above
    | true =>
      have inside : n < 32 := small
      have rest : P (x ^^^ BitVec.twoPow 32 n) := by
        refine ih (by omega) _ fun i hi => ?_
        rcases hi.eq_or_lt with rfl | above
        · simp [top, inside]
        · simp [clear i above, above.ne]
      have split : x = (x ^^^ BitVec.twoPow 32 n) ^^^ BitVec.twoPow 32 n := by
        rw [BitVec.xor_assoc, BitVec.xor_self, BitVec.xor_zero]
      exact split ▸ xor _ _ rest (bit ⟨n, inside⟩)

/-- The exclusive-or of two generator states. -/
def xorPair (p q : Word × Word) : Word × Word := (p.1 ^^^ q.1, p.2 ^^^ q.2)

theorem mixWord_flat_xor (x x' y y' : Word) :
    mixWord .flat (x ^^^ x') (y ^^^ y') = mixWord .flat x y ^^^ mixWord .flat x' y' := by
  rw [mixWord, mixWord, mixWord, BitVec.shiftLeft_xor_distrib, BitVec.ushiftRight_xor_distrib, BitVec.ushiftRight_xor_distrib]
  generalize x <<< 23 = a, x' <<< 23 = a', x >>> 17 = b, x' >>> 17 = b', y >>> 26 = c, y' >>> 26 = c'
  ac_rfl

theorem advance_xorPair (p q : Word × Word) :
    advance xsMix (xorPair p q) = xorPair (advance xsMix p) (advance xsMix q) :=
  Prod.ext rfl (mixWord_flat_xor p.1 q.1 p.2 q.2)

theorem iterate_advance_xorPair (n : Nat) (p q : Word × Word) :
    Nat.iterate (advance xsMix) n (xorPair p q) =
      xorPair (Nat.iterate (advance xsMix) n p) (Nat.iterate (advance xsMix) n q) := by
  induction n generalizing p q with
  | zero => rfl
  | succ n ih => rw [Function.iterate_succ_apply, Function.iterate_succ_apply, Function.iterate_succ_apply, advance_xorPair, ih]

/-! The period (R165): 168 draws. It is enough to follow the 32 states with a single bit in `s1`, since the draws of these
span all states. -/

theorem iterate_168_bit :
    ∀ i : Fin 32, Nat.iterate (advance xsMix) 168 (0, BitVec.twoPow 32 i) = (0, BitVec.twoPow 32 i) := by
  decide +kernel

theorem iterate_168_second (y : Word) : Nat.iterate (advance xsMix) 168 (0, y) = (0, y) := by
  induction y using word_induction with
  | zero => exact Function.iterate_fixed rfl 168
  | xor x y hx hy =>
    have split : ((0, x ^^^ y) : Word × Word) = xorPair (0, x) (0, y) := Prod.ext BitVec.xor_self.symm rfl
    rw [split, iterate_advance_xorPair, hx, hy]
  | bit i => exact iterate_168_bit i

/-- A draw from `(0, s0)` brings `s0` into the first word. -/
theorem iterate_168 (p : Word × Word) : Nat.iterate (advance xsMix) 168 p = p := by
  have first : Nat.iterate (advance xsMix) 168 (advance xsMix (0, p.1)) = advance xsMix (0, p.1) := by
    rw [← Function.iterate_succ_apply, Function.iterate_succ_apply', iterate_168_second]
  have split : p = xorPair (advance xsMix (0, p.1)) (0, (advance xsMix (0, p.1)).2 ^^^ p.2) := by
    simp [xorPair, advance]
  rw [split, iterate_advance_xorPair, first, iterate_168_second]

theorem iterate_zero_one_ne : ∀ n ∈ [84, 56, 24], Nat.iterate (advance xsMix) n (0, 1) ≠ (0, 1) := by
  decide +kernel

/-- 84, 56 and 24 are 168 divided by each of its primes, so every proper divisor of 168 divides one of them. -/
theorem eq_168_of_dvd {n : Nat} (h : n ∣ 168) (proper : ∀ m ∈ [84, 56, 24], ¬ n ∣ m) : n = 168 := by
  have among : ∀ n ∈ Nat.divisors 168, (∀ m ∈ [84, 56, 24], ¬ n ∣ m) → n = 168 := by decide
  exact among n (Nat.mem_divisors.2 ⟨h, by decide⟩) proper

theorem minimalPeriod_zero_one : Function.minimalPeriod (advance xsMix) (0, 1) = 168 := by
  refine eq_168_of_dvd (Function.IsPeriodicPt.minimalPeriod_dvd (iterate_168 _)) fun m hm dvd => ?_
  exact iterate_zero_one_ne m hm (Function.isPeriodicPt_iff_minimalPeriod_dvd.2 dvd)

/-- Settles O33: `(0, 1)` returns after no fewer draws. -/
theorem generatorPeriodIs168 : Obligations.GeneratorPeriodIs168 := by
  refine ⟨iterate_168, fun n pos less => ⟨(0, 1), ?_⟩⟩
  exact Function.not_isPeriodicPt_of_pos_of_lt_minimalPeriod pos.ne' (minimalPeriod_zero_one ▸ less)

/-! The update is a bijection (R164). Under `FLAT` its 168th power is the identity; under `CHAINED` each of the two shifts of the
old `s0` undoes itself. -/

theorem advance_flat_bijective : Function.Bijective (advance .flat) := by
  refine Function.bijective_iff_has_inverse.2 ⟨Nat.iterate (advance .flat) 167, fun p => ?_, fun p => ?_⟩
  · exact (Function.iterate_succ_apply _ 167 p).symm.trans (iterate_168 p)
  · exact (Function.iterate_succ_apply' _ 167 p).symm.trans (iterate_168 p)

/-- A shift left by half the width or more, taken twice, drops every bit. -/
theorem xor_shiftLeft_involutive {n : Nat} (h : 16 ≤ n) : Function.Involutive fun x : Word => x ^^^ (x <<< n) := by
  intro x
  have dropped : x <<< n <<< n = 0 := by
    rw [← BitVec.shiftLeft_add]
    exact BitVec.shiftLeft_eq_zero (by omega)
  simp only [BitVec.shiftLeft_xor_distrib, dropped, BitVec.xor_assoc]
  simp

theorem xor_ushiftRight_involutive {n : Nat} (h : 16 ≤ n) : Function.Involutive fun x : Word => x ^^^ (x >>> n) := by
  intro x
  have dropped : x >>> n >>> n = 0 := by
    rw [← BitVec.shiftRight_add]
    exact BitVec.ushiftRight_eq_zero (by omega)
  simp only [BitVec.ushiftRight_xor_distrib, dropped, BitVec.xor_assoc]
  simp

/-- A new word that is made of the old `s0` by an injection is made of no other `s0`. -/
theorem advance_chained_injective : Function.Injective (advance .chained) := by
  rintro ⟨x, y⟩ ⟨x', y'⟩ h
  obtain ⟨rfl, mixed⟩ : y = y' ∧ mixWord .chained x y = mixWord .chained x' y' := Prod.ext_iff.1 h
  have shifted := (BitVec.xor_left_inj y).1 ((BitVec.xor_left_inj (y >>> 26)).1 mixed)
  have same := (xor_shiftLeft_involutive (n := 23) (by decide)).injective
    ((xor_ushiftRight_involutive (n := 17) (by decide)).injective shifted)
  rw [same]

theorem advance_bijective (mix : XsMix) : Function.Bijective (advance mix) := by
  cases mix with
  | flat => exact advance_flat_bijective
  | chained => exact Finite.injective_iff_bijective.1 advance_chained_injective

theorem advance_zero (mix : XsMix) : advance mix (0, 0) = (0, 0) := by cases mix <;> rfl

/-- Settles O30: no other state maps to the fixed point of an injection. -/
theorem updateIsBijective : Obligations.UpdateIsBijective := by
  intro mix
  refine ⟨advance_bijective mix, advance_zero mix, rfl, fun p nonzero mapped => nonzero ?_⟩
  exact (advance_bijective mix).injective (mapped.trans (advance_zero mix).symm)

end Sys2Proof.Machine

/-! PROOFS. The obligations of 42_checksums.md: the CRC unit's commands (R180 to R183), the table form of the CRC step (R180), and
the AD unit's commands (R190 to R193). -/

namespace Sys2Proof.Machine

/-! The commands of the CRC unit (R181 to R183). -/

theorem exec_crcInit (s : State) : exec (.crcInit 0) s = .next (okAnswer 0 { s with crc := crcStart }) := rfl

theorem exec_crcUpdate (byte : Byte) (s : State) :
    exec (.crcUpdate 0 byte) s = .next (okAnswer 0 { s with crc := crcStep s.crc byte }) := rfl

theorem exec_crcRead (s : State) : exec (.crcRead 0) s = .next (okAnswer (crcResult s.crc) s) := rfl

/-- Inverting is exclusive-or with all ones (R183). -/
theorem crcResult_eq_xor (c : Word) : crcResult c = c ^^^ 0xFFFFFFFF := BitVec.xor_allOnes.symm

/-- Settles O36. -/
theorem crcInitStarts : Obligations.CrcInitStarts :=
  ⟨rfl, fun s => ⟨exec_crcInit s, fun r reserved => exec_of_illFormed (i := .crcInit r) (beq_false_of_ne reserved) s⟩⟩

/-- Settles O37: the intermediate remainders are those after `k` shifts. -/
theorem crcUpdateIncludesByte : Obligations.CrcUpdateIncludesByte := by
  refine ⟨rfl, fun byte s => ⟨⟨fun k => Nat.iterate crcShift k (s.crc ^^^ byte.setWidth 32), rfl, fun k => ?_, ?_⟩, ?_⟩⟩
  · exact Function.iterate_succ_apply' crcShift k _
  · exact exec_crcUpdate byte s
  · exact fun r reserved => exec_of_illFormed (i := .crcUpdate r byte) (beq_false_of_ne reserved) s

/-- Settles O38. -/
theorem crcReadAnswersInverted : Obligations.CrcReadAnswersInverted := by
  refine ⟨rfl, fun s => ⟨?_, fun r reserved => ?_⟩⟩
  · rw [exec_crcRead, crcResult_eq_xor]
  · exact exec_of_illFormed (i := .crcRead r) (beq_false_of_ne reserved) s

/-! The table form of the CRC step (R180). The shift is linear over the bits, so bits 31:8 and bits 7:0 of the remainder go
through the step apart: none of bits 31:8 is ever dropped by the eight shifts, and bits 7:0 index the table. -/

/-- What a shift adds to the remainder for the bit it drops (R180 step 2). -/
def crcFeedback (bit : Bool) : Word := if bit then crcPoly else 0

theorem crcShift_eq (c : Word) : crcShift c = (c >>> 1) ^^^ crcFeedback (c.getLsbD 0) := by
  rw [crcShift, crcFeedback]
  split
  · rfl
  · exact BitVec.xor_zero.symm

theorem crcShift_of_clear {c : Word} (clear : c.getLsbD 0 = false) : crcShift c = c >>> 1 := by
  rw [crcShift_eq, clear]
  exact BitVec.xor_zero

/-- Where both bits bring in the polynomial, it cancels. -/
theorem crcFeedback_xor (a b : Bool) : crcFeedback (a ^^ b) = crcFeedback a ^^^ crcFeedback b := by
  revert a b
  decide

theorem crcShift_xor (c d : Word) : crcShift (c ^^^ d) = crcShift c ^^^ crcShift d := by
  rw [crcShift_eq, crcShift_eq, crcShift_eq, BitVec.ushiftRight_xor_distrib, BitVec.getLsbD_xor, crcFeedback_xor]
  ac_rfl

theorem iterate_crcShift_xor (n : Nat) (c d : Word) :
    Nat.iterate crcShift n (c ^^^ d) = Nat.iterate crcShift n c ^^^ Nat.iterate crcShift n d :=
  Function.Semiconj₂.iterate (op := (· ^^^ ·)) crcShift_xor n c d

/-- A shift brings in the polynomial only for a set bit 0. -/
theorem iterate_crcShift_of_clear {n : Nat} {c : Word} (clear : ∀ i < n, c.getLsbD i = false) :
    Nat.iterate crcShift n c = c >>> n := by
  induction n with
  | zero => simp
  | succ n ih =>
    have shifted : Nat.iterate crcShift n c = c >>> n := ih fun i hi => clear i (by omega)
    have bitZero : (c >>> n).getLsbD 0 = false := by simpa using clear n n.lt_succ_self
    rw [Function.iterate_succ_apply', shifted, crcShift_of_clear bitZero, BitVec.shiftRight_add]

/-- A byte lies in bits 7:0 (R8). -/
theorem xor_byte_ushiftRight_eight (c : Word) (byte : Byte) : (c ^^^ byte.setWidth 32) >>> 8 = c >>> 8 := by
  have shiftedOut : byte.setWidth 32 >>> 8 = 0 := BitVec.eq_of_getLsbD_eq (by simp)
  rw [BitVec.ushiftRight_xor_distrib, shiftedOut]
  exact BitVec.xor_zero

/-- The eight shifts take bits 31:8 down as they are, and bits 7:0 as the table does. -/
theorem iterate_crcShift_eight (c : Word) :
    Nat.iterate crcShift 8 c = (c >>> 8) ^^^ Nat.iterate crcShift 8 ((c.extractLsb' 0 8).setWidth 32) := by
  set low : Word := (c.extractLsb' 0 8).setWidth 32 with low_eq
  have high : Nat.iterate crcShift 8 (c ^^^ low) = c >>> 8 := by
    have clear : ∀ i < 8, (c ^^^ low).getLsbD i = false := fun i hi => by
      have inside : i < 32 := by omega
      simp [low_eq, hi, inside]
    rw [iterate_crcShift_of_clear clear, xor_byte_ushiftRight_eight]
  have split : c = (c ^^^ low) ^^^ low := by rw [BitVec.xor_assoc, BitVec.xor_self, BitVec.xor_zero]
  conv_lhs => rw [split, iterate_crcShift_xor, high]

/-- Settles O39: the byte is in bits 7:0, so bits 31:8 are those of the remainder; the table's own byte is 0. -/
theorem crcTableFormAgrees : Obligations.CrcTableFormAgrees := by
  intro c byte
  have table (index : Byte) : crcStep (index.setWidth 32) 0x00 = Nat.iterate crcShift 8 (index.setWidth 32) :=
    congrArg (Nat.iterate crcShift 8) BitVec.xor_zero
  rw [table, crcStep, iterate_crcShift_eight, xor_byte_ushiftRight_eight]

/-! The commands of the AD unit (R191 to R193). -/

theorem exec_of_busy {i : Instr} {s : State} (wellFormed : i.wellFormed = true) (h : busyFor i s = true) :
    exec i s = .next (errorAnswer i.opcode 4 s) :=
  exec_of_expectedStatus (by simp [expectedStatus, wellFormed, h]) (by decide)

theorem exec_adRead (s : State) : exec (.adRead 0) s = .next (okAnswer (adlerResult s.ad) s) := rfl

/-- `b || a` as a number (R193). -/
theorem adlerResult_toNat (u : AdUnit) : (adlerResult u).toNat = u.b.toNat * 65536 + u.a.toNat := by
  rw [adlerResult, BitVec.toNat_append, ← Nat.shiftLeft_add_eq_or_of_lt u.a.isLt, Nat.shiftLeft_eq]

/-- Settles O40. -/
theorem adInitStarts : Obligations.AdInitStarts := by
  refine ⟨rfl, fun r s => ⟨fun reserved => ?_, ?_, ?_⟩⟩
  · exact exec_of_illFormed (i := .adInit r) (beq_false_of_ne reserved) s
  · rintro rfl busy
    exact exec_of_busy (i := .adInit 0) rfl busy
  · rintro rfl idle
    exact exec_adInit_idle idle

/-- Settles O41. -/
theorem adUpdateIncludesByte : Obligations.AdUpdateIncludesByte := by
  refine ⟨rfl, fun r byte s => ⟨fun reserved => ?_, ?_, ?_⟩⟩
  · exact exec_of_illFormed (i := .adUpdate r byte) (beq_false_of_ne reserved) s
  · rintro rfl busy
    exact exec_of_busy (i := .adUpdate 0 byte) rfl busy
  · rintro rfl idle
    refine ⟨adlerStep byte s.ad, exec_adUpdate_idle idle byte, adlerStep_a byte s.ad, ?_⟩
    rw [adlerStep_b, adlerStep_a]

/-- Settles O42. -/
theorem adReadAnswersSums : Obligations.AdReadAnswersSums :=
  ⟨rfl, fun s => ⟨⟨_, exec_adRead s, adlerResult_toNat s.ad⟩,
    fun r reserved => exec_of_illFormed (i := .adRead r) (beq_false_of_ne reserved) s⟩⟩

end Sys2Proof.Machine

/-! PROOFS. The obligations of 43_zlib_stored.md: the ZS unit's commands (R202 to R204), what other units' commands leave of a
stream (R206, R264), and the zlib stream of a whole payload (R200, R205). -/

namespace Sys2Proof.Machine

/-! The commands of the ZS unit (R202 to R204, R206). -/

theorem exec_zsBegin {s : State} (idle : s.zs.isOpen = false) (length : Word) :
    exec (.zsBegin length) s = .next (okAnswer 0 (openStream length s)) := runCommand_ok (by simp [idle]) _ _ _

theorem exec_zsData {s : State} (isOpen : s.zs.isOpen = true) (owed : s.zs.remain ≠ 0) (byte : Byte) :
    exec (.zsData 0 byte) s = .next (okAnswer 0 (passByte byte s)) :=
  runCommand_ok (by simpa [reservedSet, isOpen] using owed) _ _ _

theorem exec_zsEnd {s : State} (isOpen : s.zs.isOpen = true) (complete : s.zs.remain = 0) :
    exec (.zsEnd 0) s = .next (okAnswer 0 (closeStream s)) := runCommand_ok (by simp [reservedSet, isOpen, complete]) _ _ _

/-- The header with the complement of `LEN` as R200 writes it. -/
theorem blockHeader_eq (remain : Word) :
    blockHeader remain = (if remain.toNat ≤ 65535 then 0x01 else 0x00) :: littleEndian16 (blockLen remain)
      ++ littleEndian16 (blockLen remain ^^^ 0xFFFF) := by
  have complement : blockLen remain ^^^ 0xFFFF = ~~~blockLen remain := BitVec.xor_allOnes
  rw [complement]
  rfl

/-- A block that is not the last ends with this byte: `zs_blkrem` goes to 0 and `zs_remain` does not (R203 step 7). -/
theorem blockEnds_iff {u : ZsUnit} (owed : u.remain ≠ 0) :
    u.blkrem - 1 = 0 ∧ u.remain - 1 ≠ 0 ↔ u.blkrem.toNat = 1 ∧ 1 < u.remain.toNat := by
  bv_omega

/-- What follows the byte on `OUT` (R203 step 7): the next block's header if the byte ends a block that is not the last. -/
def headerAfterByte (u : ZsUnit) : List Byte :=
  if u.blkrem - 1 = 0 ∧ u.remain - 1 ≠ 0 then blockHeader (u.remain - 1) else []

theorem dataBytes_eq (byte : Byte) (u : ZsUnit) : dataBytes byte u = byte :: headerAfterByte u := by
  rw [dataBytes, headerAfterByte]
  split <;> rfl

/-- The byte that ends a block starts the next one. -/
theorem countByte_of_blockEnds {u : ZsUnit} (last : u.blkrem.toNat = 1) (more : 1 < u.remain.toNat) :
    (countByte u).blkrem = blockLen (u.remain - 1) ∧ headerAfterByte u = blockHeader (u.remain - 1) := by
  have ends := (blockEnds_iff (u := u) (by bv_omega)).2 ⟨last, more⟩
  exact ⟨if_pos ends, if_pos ends⟩

/-- Any other byte is passed alone. -/
theorem countByte_of_blockGoesOn {u : ZsUnit} (owed : u.remain ≠ 0) (goesOn : ¬(u.blkrem.toNat = 1 ∧ 1 < u.remain.toNat)) :
    (countByte u).blkrem = u.blkrem - 1 ∧ headerAfterByte u = [] := by
  have goesOn := mt (blockEnds_iff owed).1 goesOn
  exact ⟨if_neg goesOn, if_neg goesOn⟩

/-- Settles O44. -/
theorem zsBeginOpensStream : Obligations.ZsBeginOpensStream := by
  refine ⟨rfl, fun length s => ⟨fun busy => ?_, fun idle => ?_⟩⟩
  · exact exec_of_outOfSequence (i := .zsBegin length) rfl rfl busy
  · refine ⟨blockLen length, blockLen_toNat length, ?_⟩
    rw [exec_zsBegin idle, openStream, blockHeader_eq]
    rfl

/-- Settles O45. -/
theorem zsDataPassesByte : Obligations.ZsDataPassesByte := by
  refine ⟨rfl, fun r byte s => ⟨fun reserved => ?_, ?_, ?_, ?_⟩⟩
  · exact exec_of_illFormed (i := .zsData r byte) (beq_false_of_ne reserved) s
  · rintro rfl idle
    exact exec_of_outOfSequence (i := .zsData 0 byte) rfl rfl (congrArg Bool.not idle)
  · rintro rfl isOpen complete
    exact exec_of_overLength (i := .zsData 0 byte) rfl rfl (congrArg Bool.not isOpen)
      (beq_iff_eq.2 (congrArg BitVec.toNat complete))
  · rintro rfl isOpen owed inBlock
    refine ⟨adlerStep byte s.ad, countByte s.zs, headerAfterByte s.zs, ?_, adlerStep_a byte s.ad, ?_, isOpen, ?_, ?_, ?_⟩
    · rw [exec_zsData isOpen owed, passByte, dataBytes_eq, List.append_assoc]
      rfl
    · rw [adlerStep_b, adlerStep_a]
    · rw [countByte_remain]
      bv_omega
    · intro goesOn
      obtain ⟨blkrem, header⟩ := countByte_of_blockGoesOn owed goesOn
      exact ⟨by rw [blkrem]; bv_omega, header⟩
    · rintro ⟨last, more⟩
      obtain ⟨blkrem, header⟩ := countByte_of_blockEnds last more
      rw [blkrem, header, blockHeader_eq]
      exact ⟨blockLen_toNat _, rfl⟩

/-- Settles O46. -/
theorem zsEndClosesStream : Obligations.ZsEndClosesStream := by
  refine ⟨rfl, fun r s => ⟨fun reserved => ?_, ?_, ?_, ?_⟩⟩
  · exact exec_of_illFormed (i := .zsEnd r) (beq_false_of_ne reserved) s
  · rintro rfl idle
    exact exec_of_outOfSequence (i := .zsEnd 0) rfl rfl (congrArg Bool.not idle)
  · rintro rfl isOpen owed
    exact exec_of_overLength (i := .zsEnd 0) rfl rfl (congrArg Bool.not isOpen)
      (bne_iff_ne.2 fun complete => owed (BitVec.eq_of_toNat_eq complete))
  · rintro rfl isOpen complete
    exact exec_zsEnd isOpen complete

/-! What other units' commands leave of a stream (R206, R264). -/

/-- In `t` the ZS unit and `OUT` are those of `s` and, while a stream is open, so is its checksum. An idle ZS unit does not look
at the AD unit. -/
structure SameStream (s t : State) : Prop where
  zs : t.zs = s.zs
  out : t.out = s.out
  ad : s.zs.isOpen = true → t.ad = s.ad

theorem SameStream.refl (s : State) : SameStream s s := ⟨rfl, rfl, fun _ => rfl⟩

theorem SameStream.trans {s t u : State} (st : SameStream s t) (tu : SameStream t u) : SameStream s u :=
  ⟨tu.zs.trans st.zs, tu.out.trans st.out, fun isOpen => (tu.ad (st.zs ▸ isOpen)).trans (st.ad isOpen)⟩

theorem unitOf_ne_zs {i : Instr} (other : isZs i = false) : unitOf i ≠ 5 := by
  rw [unitOf_eq_unitNumber]
  cases i with
  | zsBegin | zsData | zsEnd => cases other
  | _ => simp [unitNumber]

/-- An AD command that would change the checksum of an open stream is refused (R25). -/
theorem ad_of_busyFor {i : Instr} {s t : State} (busy : busyFor i s = true) (h : exec i s = .next t) : t.ad = s.ad := by
  have refused : expectedStatus i s ≠ statusOk := by
    rw [expectedStatus, busy]
    split
    · decide
    · exact (by decide : (4 : BitVec 4) ≠ statusOk)
  rw [(answers_exec h).error refused, errorAnswer]

/-- No command of another unit but `SYS_RESET` touches the stream. -/
theorem exec_other_sameStream {i : Instr} {s t : State} (other : isZs i = false) (noReset : isReset i = false)
    (h : exec i s = .next t) : SameStream s t := by
  have frame := exec_changesOnly noReset h
  have notZs := unitOf_ne_zs other
  refine ⟨frame.zs notZs, frame.out notZs, fun isOpen => ?_⟩
  cases i with
  | adInit r => exact ad_of_busyFor (i := .adInit r) isOpen h
  | adUpdate r byte => exact ad_of_busyFor (i := .adUpdate r byte) isOpen h
  | adRead r => obtain ⟨code, -, rfl⟩ | ⟨-, rfl⟩ := runCommand_cases h <;> rfl
  | _ => exact frame.ad (by simp [unitOf_eq_unitNumber, unitNumber]) notZs

/-- Two commands that make the same checks and, if they pass, do the same to the stream, give the same response. -/
theorem runCommand_sameStream {op : BitVec 8} {checks : List (Bool × ErrorCode)} {done done' : State} {res : Word}
    {s s' t t' : State} (same : SameStream s s') (work : firstError checks = none → SameStream done done')
    (silent : done.responses = s.responses) (silent' : done'.responses = s'.responses)
    (h : runCommand op checks done res s = .next t) (h' : runCommand op checks done' res s' = .next t') :
    SameStream t t' ∧ ∃ r, t.responses = s.responses ++ [r] ∧ t'.responses = s'.responses ++ [r] := by
  cases first : firstError checks with
  | some code =>
    rw [runCommand_error first] at h h'
    cases h
    cases h'
    exact ⟨⟨same.zs, same.out, same.ad⟩, _, rfl, rfl⟩
  | none =>
    rw [runCommand_ok first] at h h'
    cases h
    cases h'
    obtain ⟨zs, out, ad⟩ := work first
    exact ⟨⟨zs, out, ad⟩, _, by rw [respond_responses, silent], by rw [respond_responses, silent']⟩

/-- A command of the ZS unit makes checks on that unit alone, and its work, where they pass, is a function of the stream. -/
theorem exec_zs_eq_runCommand {i : Instr} (zsUnit : isZs i = true) :
    ∃ (checks : ZsUnit → List (Bool × ErrorCode)) (work : State → State),
      (∀ s, exec i s = runCommand i.opcode (checks s.zs) (work s) 0 s) ∧ (∀ s, (work s).responses = s.responses) ∧
      ∀ {s s'}, SameStream s s' → firstError (checks s.zs) = none → SameStream (work s) (work s') := by
  cases i with
  | zsBegin length =>
    refine ⟨fun u => [(u.isOpen, .seq)], openStream length, fun _ => rfl, fun _ => rfl, fun same _ => ?_⟩
    exact ⟨rfl, by rw [openStream_out, openStream_out, same.out], fun _ => rfl⟩
  | zsData r byte =>
    refine ⟨fun u => [(reservedSet r, .arg), (!u.isOpen, .seq), (u.remain == 0, .len)], passByte byte, fun _ => rfl,
      fun _ => rfl, fun {s _} same passed => ?_⟩
    have isOpen : s.zs.isOpen = true := by simpa using firstError_eq_none.1 passed (!s.zs.isOpen, .seq) (by simp)
    exact ⟨congrArg countByte same.zs, by rw [passByte_out, passByte_out, same.zs, same.out],
      fun _ => congrArg (adlerStep byte) (same.ad isOpen)⟩
  | zsEnd r =>
    refine ⟨fun u => [(reservedSet r, .arg), (!u.isOpen, .seq), (u.remain != 0, .len)], closeStream, fun _ => rfl,
      fun _ => rfl, fun {s _} same passed => ?_⟩
    have isOpen : s.zs.isOpen = true := by simpa using firstError_eq_none.1 passed (!s.zs.isOpen, .seq) (by simp)
    have ad := same.ad isOpen
    exact ⟨by rw [closeStream_zs, closeStream_zs, same.zs], by rw [closeStream_out, closeStream_out, ad, same.out],
      fun _ => ad⟩
  | _ => cases zsUnit

/-- A command of the ZS unit keeps equal streams equal and gives the same response for both. -/
theorem exec_zs_sameStream {i : Instr} {s s' t t' : State} (zsUnit : isZs i = true) (same : SameStream s s')
    (h : exec i s = .next t) (h' : exec i s' = .next t') :
    SameStream t t' ∧ ∃ r, t.responses = s.responses ++ [r] ∧ t'.responses = s'.responses ++ [r] := by
  obtain ⟨checks, work, run, silent, sameWork⟩ := exec_zs_eq_runCommand zsUnit
  rw [run] at h h'
  rw [same.zs] at h'
  exact runCommand_sameStream same (sameWork same) (silent s) (silent s') h h'

/-! Commands interleaved with a stream (R205, R206). -/

/-- `program` leads from `s` to `t` and every command of it answers `(OK, 0)`. -/
inductive RunsOk : List Instr → State → State → Prop
  | nil (s : State) : RunsOk [] s s
  | cons {i : Instr} {rest : List Instr} {s t u : State} (run : exec i s = .next t)
      (answer : t.responses = s.responses ++ [responseWord 0 0]) (goesOn : RunsOk rest t u) : RunsOk (i :: rest) s u

theorem RunsOk.append {first second : List Instr} {s t u : State} (h : RunsOk first s t) (h' : RunsOk second t u) :
    RunsOk (first ++ second) s u := by
  induction h with
  | nil => exact h'
  | cons run answer _ ih => exact .cons run answer (ih h')

theorem RunsOk.runProgram {program : List Instr} {s t : State} (h : RunsOk program s t) : runProgram program s = .next t := by
  induction h with
  | nil => rfl
  | cons run _ _ ih => rw [runProgram_cons run, ih]

/-- Every ZS command of the program has `(OK, 0)` as its answer. -/
def ZsAnswersOk (program : List Instr) (answers : List ResponseWord) : Prop :=
  List.Forall₂ (fun i r => isZs i = true → r = responseWord 0 0) program answers

theorem ZsAnswersOk.getElem? {program : List Instr} {answers : List ResponseWord} (ok : ZsAnswersOk program answers) {k : Nat}
    {i : Instr} (at_k : program[k]? = some i) (zsUnit : isZs i = true) : answers[k]? = some (responseWord 0 0) := by
  obtain ⟨inProgram, rfl⟩ := List.getElem?_eq_some_iff.1 at_k
  have inAnswers : k < answers.length := ok.length_eq ▸ inProgram
  exact List.getElem?_eq_some_iff.2 ⟨inAnswers, ok.get inProgram inAnswers zsUnit⟩

/-- If the ZS commands of a program answer `(OK, 0)` among themselves, they do so with other units' commands interleaved, and
leave the same stream. -/
theorem runProgram_interleaved {program : List Instr} {s s' u : State} (same : SameStream s s')
    (noReset : ∀ i ∈ program, isReset i = false) (alone : RunsOk (program.filter isZs) s u) :
    ∃ t answers, runProgram program s' = .next t ∧ SameStream u t ∧ t.responses = s'.responses ++ answers ∧
      ZsAnswersOk program answers := by
  induction program generalizing s s' with
  | nil =>
    cases alone
    exact ⟨s', [], rfl, same, (List.append_nil _).symm, .nil⟩
  | cons i rest ih =>
    obtain ⟨noResetHere, noResetAfter⟩ := List.forall_mem_cons.1 noReset
    obtain ⟨t', run'⟩ := exec_next i s'
    suffices step : ∃ t r, SameStream t t' ∧ RunsOk (rest.filter isZs) t u ∧ t'.responses = s'.responses ++ [r] ∧
        (isZs i = true → r = responseWord 0 0) by
      obtain ⟨t, r, same, alone, answer, ok⟩ := step
      obtain ⟨v, answers, run, sameEnd, responses, okAfter⟩ := ih same noResetAfter alone
      exact ⟨v, r :: answers, by rw [runProgram_cons run', run], sameEnd,
        by rw [responses, answer, List.append_assoc, List.singleton_append], .cons ok okAfter⟩
    cases zsUnit : isZs i with
    | true =>
      rw [List.filter_cons_of_pos zsUnit] at alone
      cases alone with
      | cons run answer goesOn =>
        obtain ⟨sameAfter, r, own, other⟩ := exec_zs_sameStream zsUnit same run run'
        have ok : r = responseWord 0 0 := by simpa using own.symm.trans answer
        exact ⟨_, r, sameAfter, goesOn, other, fun _ => ok⟩
    | false =>
      rw [List.filter_cons_of_neg (by simp [zsUnit])] at alone
      obtain ⟨⟨res, responses⟩, -⟩ := answers_exec run'
      exact ⟨s, _, same.trans (exec_other_sameStream zsUnit noResetHere run'), alone, responses, nofun⟩

/-! The stored blocks of a payload (R200, R201). -/

/-- The stored blocks of the payload `p`. -/
def storedBlocks (p : List Byte) : List Byte :=
  (List.range (blockCount p.length)).flatMap (storedBlock p (blockCount p.length))

theorem zlibStream_eq (p : List Byte) : zlibStream p = [zsCmf, zsFlg] ++ storedBlocks p ++ bigEndian32 (adler32 p) := rfl

/-- What the blocks of the payload `p` are from inside a block: the `b` bytes left of it, then the blocks of what is left. -/
def blocksFrom (b : Nat) (p : List Byte) : List Byte := p.take b ++ if b < p.length then storedBlocks (p.drop b) else []

theorem blockCount_of_le {n : Nat} (h : n ≤ 65535) : blockCount n = 1 := by
  simp only [blockCount, zsBlockMax]
  omega

theorem blockCount_of_gt {n : Nat} (h : 65535 < n) : blockCount n = blockCount (n - 65535) + 1 := by
  simp only [blockCount, zsBlockMax]
  omega

/-- The first block of a payload is a header and the bytes it counts (R201). -/
theorem storedBlock_zero (p : List Byte) (short : p.length < 2 ^ 32) :
    storedBlock p (blockCount p.length) 0 = blockHeader (BitVec.ofNat 32 p.length) ++ p.take 65535 := by
  have remain : (BitVec.ofNat 32 p.length).toNat = p.length := Nat.mod_eq_of_lt short
  have last : 0 + 1 = blockCount p.length ↔ p.length ≤ 65535 := by
    simp only [blockCount, zsBlockMax]
    omega
  have len : BitVec.ofNat 16 (p.take 65535).length = blockLen (BitVec.ofNat 32 p.length) := by
    rw [blockLen, remain, List.length_take, Nat.min_comm]
    rfl
  simp only [storedBlock, blockHeader_eq, zsBlockMax, Nat.mul_zero, List.drop_zero, len, last, remain]

/-- The later blocks are those of the payload without its first block's bytes. -/
theorem storedBlock_succ (p : List Byte) (m k : Nat) : storedBlock p (m + 1) (k + 1) = storedBlock (p.drop 65535) m k := by
  have offset : zsBlockMax * (k + 1) = 65535 + zsBlockMax * k := by rw [zsBlockMax]; omega
  simp only [storedBlock, List.drop_drop, offset, Nat.add_right_cancel_iff]

/-- A payload's blocks begin with a header of its length (R201). -/
theorem storedBlocks_eq (p : List Byte) (short : p.length < 2 ^ 32) :
    storedBlocks p = blockHeader (BitVec.ofNat 32 p.length) ++ blocksFrom (min p.length 65535) p := by
  by_cases one : p.length ≤ 65535
  · have first := storedBlock_zero p short
    rw [blockCount_of_le one, List.take_of_length_le one] at first
    simp [storedBlocks, blocksFrom, blockCount_of_le one, first, one]
  · have many := not_le.1 one
    have later : blockCount p.length = blockCount (p.drop 65535).length + 1 := by
      rw [List.length_drop, blockCount_of_gt many]
    have first := storedBlock_zero p short
    rw [later] at first
    rw [blocksFrom, Nat.min_eq_right many.le, if_pos many, storedBlocks, later, List.range_succ_eq_map, List.flatMap_cons, first,
      List.flatMap_map, List.append_assoc]
    simp only [storedBlock_succ, storedBlocks]

/-- A payload's blocks are its bytes and five bytes of header for each block (R200). -/
theorem storedBlocks_length (p : List Byte) (short : p.length < 2 ^ 32) :
    (storedBlocks p).length = 5 * blockCount p.length + p.length := by
  rw [storedBlocks_eq p short, blocksFrom, List.length_append, List.length_append, blockHeader_length]
  by_cases one : p.length ≤ 65535
  · simp [one, blockCount_of_le one]
  · have many := not_le.1 one
    have left : (p.drop 65535).length = p.length - 65535 := List.length_drop
    have later := storedBlocks_length (p.drop 65535) (by omega)
    rw [Nat.min_eq_right many.le, if_pos many, later, left, List.length_take, blockCount_of_gt many]
    omega
termination_by p.length

/-! The commands of a whole stream (R203 to R205). -/

/-- A byte and what follows it on `OUT` are the next of the bytes and headers still to come (R203). -/
theorem blocksFrom_cons {u : ZsUnit} (inv : u.Inv) {byte : Byte} {rest : List Byte} (remain : u.remain.toNat = rest.length + 1) :
    blocksFrom u.blkrem.toNat (byte :: rest) = dataBytes byte u ++ blocksFrom (countByte u).blkrem.toNat rest := by
  have owed : u.remain ≠ 0 := by bv_omega
  have inBlock : u.blkrem ≠ 0 := mt inv.zero.1 owed
  rw [dataBytes_eq]
  by_cases ends : u.blkrem.toNat = 1 ∧ 1 < u.remain.toNat
  · obtain ⟨last, more⟩ := ends
    obtain ⟨blkrem, header⟩ := countByte_of_blockEnds last more
    have left : (u.remain - 1).toNat = rest.length := by bv_omega
    have left' : u.remain - 1 = BitVec.ofNat 32 rest.length := by rw [← left, BitVec.ofNat_toNat, BitVec.setWidth_eq]
    have next := storedBlocks_eq rest (left ▸ (u.remain - 1).isLt)
    rw [blkrem, header, blockLen_toNat, left, left', List.cons_append, ← next, blocksFrom, last, if_pos (by simp; omega)]
    rfl
  · obtain ⟨blkrem, header⟩ := countByte_of_blockGoesOn owed ends
    obtain ⟨b, left⟩ : ∃ b, u.blkrem.toNat = b + 1 := Nat.exists_eq_succ_of_ne_zero (by bv_omega)
    have left' : (u.blkrem - 1).toNat = b := by bv_omega
    rw [blkrem, header, left', left]
    simp [blocksFrom]

/-- The state that all the bytes owed leave: each has passed, with the headers of the blocks it ran through. -/
def afterData (p : List Byte) (s : State) : State :=
  { s with
    zs := { isOpen := true, remain := 0, blkrem := 0 }
    ad := p.foldl (fun u byte => adlerStep byte u) s.ad
    out := s.out ++ blocksFrom s.zs.blkrem.toNat p
    responses := s.responses ++ List.replicate p.length (responseWord 0 0) }

theorem runsOk_zsData (p : List Byte) {s : State} (isOpen : s.zs.isOpen = true) (inv : s.zs.Inv)
    (remain : s.zs.remain.toNat = p.length) : RunsOk (p.map (.zsData 0)) s (afterData p s) := by
  induction p generalizing s with
  | nil =>
    have complete : s.zs.remain = 0 := BitVec.eq_of_toNat_eq remain
    have counted : s.zs = { isOpen := true, remain := 0, blkrem := 0 } := by
      rw [← isOpen, ← inv.zero.2 complete, ← complete]
    have unchanged : afterData [] s = s := by
      rw [afterData, ← counted]
      simp [blocksFrom]
    exact unchanged.symm ▸ RunsOk.nil s
  | cons byte rest ih =>
    have owed : s.zs.remain ≠ 0 := by
      intro complete
      simp [complete] at remain
    have left : (s.zs.remain - 1).toNat = rest.length := by
      rw [List.length_cons] at remain
      bv_omega
    have goesOn : afterData rest (okAnswer 0 (passByte byte s)) = afterData (byte :: rest) s := by
      simp [afterData, okAnswer, blocksFrom_cons inv remain, List.replicate_succ]
    exact .cons (exec_zsData isOpen owed byte) rfl (goesOn ▸ ih isOpen (inv.countByte isOpen owed) left)

/-- The trailer of R204 is the big-endian Adler-32 (R71). -/
theorem adlerTrailer_eq (u : AdUnit) : adlerTrailer u = bigEndian32 (adlerResult u) := by
  have high {k : Nat} (inside : k + 8 ≤ 16) : (u.b ++ u.a).extractLsb' (16 + k) 8 = u.b.extractLsb' k 8 := by
    rw [← extractLsb'_extractLsb' _ inside, extractLsb'_append_high]
  have low {k : Nat} (inside : k + 8 ≤ 16) : (u.b ++ u.a).extractLsb' (0 + k) 8 = u.a.extractLsb' k 8 := by
    rw [← extractLsb'_extractLsb' _ inside, extractLsb'_append_low]
  rw [adlerTrailer, highByte, lowByte, highByte, lowByte, ← high (by decide), ← high (by decide), ← low (by decide),
    ← low (by decide)]
  rfl

/-- The state that the stream of the payload `p` leaves (R205). -/
def afterStream (p : List Byte) (s : State) : State :=
  { s with
    zs := { isOpen := false, remain := 0, blkrem := 0 }
    ad := adlerSums p
    out := s.out ++ zlibStream p
    responses := s.responses ++ List.replicate (p.length + 2) (responseWord 0 0) }

/-- The headers and bytes between the zlib header and the trailer are the stored blocks, and the sums are those of the payload. -/
theorem closeStream_afterData (p : List Byte) (s : State) (short : p.length < 2 ^ 32) :
    okAnswer 0 (closeStream (afterData p (okAnswer 0 (openStream (BitVec.ofNat 32 p.length) s)))) = afterStream p s := by
  have remain : (BitVec.ofNat 32 p.length).toNat = p.length := Nat.mod_eq_of_lt short
  have answers : List.replicate (p.length + 2) (responseWord 0 0)
      = responseWord 0 0 :: (List.replicate p.length (responseWord 0 0) ++ [responseWord 0 0]) := by
    rw [← List.replicate_succ', ← List.replicate_succ]
  rw [closeStream, adlerTrailer_eq, afterStream, zlibStream_eq, storedBlocks_eq p short, answers]
  simp [afterData, okAnswer, remain, adler32, adlerSums]

theorem runsOk_zsStream {p : List Byte} {s : State} (short : p.length < 2 ^ 32) (idle : s.zs.isOpen = false) :
    RunsOk (zsStream p) s (afterStream p s) := by
  have remain : (BitVec.ofNat 32 p.length).toNat = p.length := Nat.mod_eq_of_lt short
  have data := runsOk_zsData p (s := okAnswer 0 (openStream (BitVec.ofNat 32 p.length) s)) rfl
    (ZsUnit.inv_of_blockLen rfl rfl) remain
  exact .append (.cons (exec_zsBegin idle _) rfl data)
    (.cons (exec_zsEnd rfl rfl) rfl (closeStream_afterData p s short ▸ .nil _))

theorem zsStream_length (p : List Byte) : (zsStream p).length = p.length + 2 := by simp [zsStream]

theorem zlibStream_length {p : List Byte} (short : p.length < 2 ^ 32) :
    (zlibStream p).length = 2 + 5 * blockCount p.length + p.length + 4 := by
  rw [zlibStream_eq, List.length_append, List.length_append, storedBlocks_length p short]
  simp [bigEndian32]
  omega

/-- Settles O47: the stream runs by itself as `runsOk_zsStream` says, and other units' commands between leave it. -/
theorem zlibStreamEmitted : Obligations.ZlibStreamEmitted := by
  intro p s short idle
  have alone := runsOk_zsStream short idle
  refine ⟨zlibStream_length short, fun program zsCommands noReset => ?_, ?_⟩
  · rw [← zsCommands] at alone
    obtain ⟨t, answers, run, same, responses, ok⟩ := runProgram_interleaved (.refl s) noReset alone
    have closed : t.zs.isOpen = false := by rw [same.zs, afterStream]
    exact ⟨t, answers, (run_issue program s).trans run, same.out, closed, responses, ok.length_eq.symm,
      fun _ _ => ok.getElem?⟩
  · have run := (run_issue (zsStream p) s).trans alone.runProgram
    rwa [zsStream_length] at run

end Sys2Proof.Machine

/-! PROOFS. The obligations of 44_system.md: the SYS unit's commands (R220 to R223), and the registers that `SYS_RDCSR` reads
(R40 to R50). -/

namespace Sys2Proof.Machine

/-! The commands of the SYS unit that read no register (R220, R221, R223). -/

theorem exec_sysNop (s : State) : exec (.sysNop 0) s = .next (okAnswer 0 s) := rfl

theorem exec_sysReset (s : State) : exec (.sysReset 0) s = .next (okAnswer 0 (resetUnits s)) := rfl

theorem exec_sysClrerr (s : State) : exec (.sysClrerr 0) s = .next (okAnswer 0 { s with err := .reset }) := rfl

/-- A hard reset between two commands resets the units and answers nothing (R260). -/
theorem step_hardReset {s : State} {during : List CommandWord} {rest : List HostEvent}
    (port : s.port = .hardReset none during :: rest) : step s = .next (resetUnits { s with port := rest }) := by
  rw [step, takeNext, port]
  rfl

/-- The reset units are those of the reset state; what stands at the ports stays (R55, R63). -/
theorem resetUnits_eq_atPorts (s : State) : resetUnits s = State.reset.atPorts s := rfl

/-- Settles O11. -/
theorem sysNopChangesNothing : Obligations.SysNopChangesNothing :=
  ⟨rfl, fun s => ⟨exec_sysNop s, fun r reserved => exec_of_illFormed (i := .sysNop r) (beq_false_of_ne reserved) s⟩⟩

/-- Settles O12: both resets are `resetUnits`. -/
theorem sysResetRestoresUnits : Obligations.SysResetRestoresUnits := by
  refine ⟨rfl, fun s => ⟨?_, ?_, fun r reserved => ?_⟩⟩
  · rw [exec_sysReset, resetUnits_eq_atPorts]
    rfl
  · rw [step_hardReset rfl, resetUnits_eq_atPorts]
    rfl
  · exact exec_of_illFormed (i := .sysReset r) (beq_false_of_ne reserved) s

/-- Settles O15. -/
theorem sysClrerrEmptiesRecord : Obligations.SysClrerrEmptiesRecord :=
  ⟨rfl, fun s =>
    ⟨exec_sysClrerr s, fun r reserved => exec_of_illFormed (i := .sysClrerr r) (beq_false_of_ne reserved) s⟩⟩

/-! `SYS_RDCSR` (R222): which register an index reads, and when the command is refused. -/

/-- The value that `SYS_RDCSR` answers for a CSR index: that of the register it names (R40). -/
def csrReading (s : State) (index : BitVec 4) : Word := ((csrOfIndex index).map (csrValue s)).getD 0

theorem exec_sysRdcsr {index : BitVec 4} (defined : index.toNat ≤ 12) (s : State) :
    exec (.sysRdcsr 0 index) s = .next (okAnswer (csrReading s index) s) := by
  have named : (csrOfIndex index).isNone = false := by
    rw [csrOfIndex_isNone, Bool.not_eq_false', decide_eq_true_eq]
    exact defined
  exact runCommand_ok (by simp [reservedSet, named]) _ _ _

/-- A reserved bit and a reserved index both fail the operand check (R50, R94). -/
theorem sysRdcsr_illFormed {r : BitVec 28} {index : BitVec 4} (h : r ≠ 0 ∨ 12 < index.toNat) :
    (Instr.sysRdcsr r index).wellFormed = false := by
  rw [Instr.wellFormed, Bool.and_eq_false_iff]
  exact h.imp beq_false_of_ne fun above => decide_eq_false (Nat.not_le.2 above)

/-! The bit fields of `STATUS` and `ERRINFO` (R41, R42), which are concatenations, a field of fixed zeros first. -/

/-- Putting `n` bits below a number of at most `k` bits. -/
theorem toNat_append_lt {m n k : Nat} {x : BitVec m} (y : BitVec n) (h : x.toNat < 2 ^ k) :
    (x ++ y).toNat < 2 ^ (k + n) := by
  rw [BitVec.toNat_append]
  exact Nat.or_lt_two_pow (by rw [Nat.shiftLeft_eq, pow_add]; gcongr) (y.isLt.trans_le (by gcongr <;> omega))

theorem statusWord_shaDone (s : State) : (statusWord s).getLsbD 0 = s.sha.done := by
  rw [statusWord, BitVec.getLsbD_append]
  simp

theorem statusWord_xsSt (s : State) : (statusWord s).extractLsb' 1 2 = xsStBits s.xs.st := by
  rw [statusWord, BitVec.extractLsb'_append_eq_of_le (by decide)]
  exact extractLsb'_append_low ..

theorem statusWord_zsOpen (s : State) : (statusWord s).getLsbD 3 = s.zs.isOpen := by
  rw [statusWord, BitVec.getLsbD_append, BitVec.getLsbD_append, BitVec.getLsbD_append]
  simp

theorem statusWord_err (s : State) : (statusWord s).getLsbD 4 = s.err.err := by
  rw [statusWord, BitVec.getLsbD_append, BitVec.getLsbD_append, BitVec.getLsbD_append, BitVec.getLsbD_append]
  simp

/-- Bits 31:5 of `STATUS` read 0. -/
theorem statusWord_lt (s : State) : (statusWord s).toNat < 2 ^ 5 := by
  have zeros : (0 : BitVec 27).toNat < 2 ^ 0 := by decide
  exact toNat_append_lt _ (toNat_append_lt _ (toNat_append_lt _ (toNat_append_lt _ zeros)))

theorem xsStBits_toNat (st : XsState) :
    (xsStBits st).toNat = (match st with | .unseeded => 0 | .seeding => 1 | .ready => 2) := by
  cases st <;> rfl

theorem errinfoWord_code (s : State) : (errinfoWord s).extractLsb' 0 4 = s.err.code := extractLsb'_append_low ..

theorem errinfoWord_zeros (s : State) : (errinfoWord s).extractLsb' 4 4 = 0 := by
  rw [errinfoWord, BitVec.extractLsb'_append_eq_of_le (by decide)]
  exact extractLsb'_append_low ..

theorem errinfoWord_op (s : State) : (errinfoWord s).extractLsb' 8 8 = s.err.op := by
  rw [errinfoWord, BitVec.extractLsb'_append_eq_of_le (by decide), BitVec.extractLsb'_append_eq_of_le (by decide)]
  exact extractLsb'_append_low ..

/-- Bits 31:16 of `ERRINFO` read 0. -/
theorem errinfoWord_lt (s : State) : (errinfoWord s).toNat < 2 ^ 16 := by
  have zeros : (0 : BitVec 16).toNat < 2 ^ 0 := by decide
  exact toNat_append_lt _ (toNat_append_lt _ (toNat_append_lt _ zeros))

/-! The counters as numbers (R43, R45, R47 to R49). -/

/-- `SHA_LEN_LO` (R43). -/
theorem csrValue_shaLenLo_toNat (s : State) : (csrValue s .shaLenLo).toNat = s.sha.len.toNat % 2 ^ 32 :=
  BitVec.extractLsb'_toNat ..

/-- `SHA_LEN_HI` (R43): the length has 61 bits, so 29 are left above bit 31. -/
theorem csrValue_shaLenHi_toNat (s : State) : (csrValue s .shaLenHi).toNat = s.sha.len.toNat / 2 ^ 32 := by
  have inside : s.sha.len.toNat / 2 ^ 32 < 2 ^ 29 := by omega
  simp only [csrValue, BitVec.toNat_append]
  rw [BitVec.extractLsb'_toNat, Nat.shiftRight_eq_div_pow, Nat.mod_eq_of_lt inside]
  simp

theorem csrValue_xsCnt_toNat (s : State) : (csrValue s .xsCnt).toNat = s.xs.cnt.val :=
  Nat.mod_eq_of_lt (by omega)

/-- Settles O14: index `k` reads `csrReading s k`, which for each of the 13 defined indices is its register's value. -/
theorem sysRdcsrReadsView : Obligations.SysRdcsrReadsView := by
  refine ⟨rfl, fun s => ⟨fun k => csrReading s (BitVec.ofNat 4 k), fun k defined => ?_, fun r k h => ?_, ?_⟩⟩
  · simp only [BitVec.ofNat_toNat, BitVec.setWidth_eq]
    exact exec_sysRdcsr defined s
  · exact exec_of_illFormed (sysRdcsr_illFormed h) s
  · exact ⟨statusWord_shaDone s, (congrArg BitVec.toNat (statusWord_xsSt s)).trans (xsStBits_toNat s.xs.st),
      statusWord_zsOpen s, statusWord_err s, statusWord_lt s,
      errinfoWord_code s, errinfoWord_zeros s, errinfoWord_op s, errinfoWord_lt s,
      csrValue_shaLenLo_toNat s, csrValue_shaLenHi_toNat s, rfl, rfl, csrValue_xsCnt_toNat s, rfl,
      BitVec.toNat_setWidth_of_le (b := s.ad.a) (by decide), BitVec.toNat_setWidth_of_le (b := s.ad.b) (by decide), rfl,
      BitVec.toNat_setWidth_of_le (b := s.zs.blkrem) (by decide),
      BitVec.toNat_setWidth_of_le (b := s.sha.fill) (by decide)⟩

end Sys2Proof.Machine

/-! PROOFS. The obligations of 60_exceptions.md: the effect of an error response and what the error record does not reach (R232),
the matrix of error codes (R231), and that every step leaves a next state (R230, R240). -/

namespace Sys2Proof.Machine

/-! The error record is written and read back, and nothing else depends on it (R232). -/

theorem errorAnswer_err_of_pending {s : State} (pending : s.err.err = true) (op : BitVec 8) (st : BitVec 4) :
    (errorAnswer op st s).err = s.err := if_pos pending

/-- The data units and `OUT` of `t` are those of `s`: the two differ at most in the SYS unit and at the other ports. -/
structure SameData (s t : State) : Prop where
  sha : t.sha = s.sha
  xs : t.xs = s.xs
  crc : t.crc = s.crc
  ad : t.ad = s.ad
  zs : t.zs = s.zs
  out : t.out = s.out

theorem SameData.withErr (e : ErrorRecord) (s : State) : SameData s { s with err := e } := ⟨rfl, rfl, rfl, rfl, rfl, rfl⟩

/-- Two commands that make the same checks, and whose work leaves the same data, leave the same data; their results and their
error records may differ. -/
theorem runCommand_sameData {op : BitVec 8} {checks : List (Bool × ErrorCode)} {done done' : State} {res res' : Word}
    {s s' t t' : State} (h : runCommand op checks done res s = .next t) (h' : runCommand op checks done' res' s' = .next t')
    (same : SameData s s') (work : SameData done done') : SameData t t' := by
  cases first : firstError checks with
  | some code =>
    rw [runCommand_error first] at h h'
    cases h
    cases h'
    exact { same with }
  | none =>
    rw [runCommand_ok first] at h h'
    cases h
    cases h'
    exact { work with }

/-- No command's checks or work read the error record: only `SYS_RDCSR` reads it, for its result. -/
theorem exec_withErr_sameData {i : Instr} {e : ErrorRecord} {s t t' : State} (h : exec i s = .next t)
    (h' : exec i { s with err := e } = .next t') : SameData t t' := by
  cases i <;> exact runCommand_sameData h h' (.withErr e s) ⟨rfl, rfl, rfl, rfl, rfl, rfl⟩

/-- None of the causes of R231 is an error pending. -/
theorem expectedStatus_withErr (i : Instr) (e : ErrorRecord) (s : State) :
    expectedStatus i { s with err := e } = expectedStatus i s := by
  cases i <;> rfl

/-- Settles O8. -/
theorem errorResponseEffect : Obligations.ErrorResponseEffect := by
  refine ⟨raiseErr_eq_errorAnswer, fun op st s pending => errorAnswer_err_of_pending pending op st, fun i e s => ?_⟩
  obtain ⟨t, run⟩ := exec_next i s
  obtain ⟨t', run'⟩ := exec_next i { s with err := e }
  obtain ⟨res, responses⟩ := (answers_exec run).responses
  obtain ⟨res', responses'⟩ := (answers_exec run').responses
  have same := exec_withErr_sameData run run'
  refine ⟨t, t', _, _, run, run', responses, responses', ?_, same.sha, same.xs, same.crc, same.ad, same.zs, same.out⟩
  rw [responseStatus_responseWord, responseStatus_responseWord, expectedStatus_withErr i e s]

/-! The matrix of R231, from a command's causes to its marks. -/

theorem errorStatus_injective : Function.Injective errorStatus := by
  intro code code' h
  cases code <;> cases code' <;> revert h <;> decide

theorem errorStatus_ne_ok (code : ErrorCode) : errorStatus code ≠ statusOk := by
  cases code <;> decide

/-- A command answers an error code only where the cause of that code stands against it. -/
theorem mem_causes_of_expectedStatus {i : Instr} {s : State} {code : ErrorCode} (h : expectedStatus i s = errorStatus code) :
    (true, code) ∈ causes i s := by
  rw [← checkedStatus_causes, checkedStatus] at h
  cases first : firstError (causes i s) with
  | none => exact absurd (by simpa [first] using h.symm) (errorStatus_ne_ok code)
  | some code' =>
    obtain rfl : code' = code := errorStatus_injective (by simpa [first] using h)
    exact firstError_mem first

theorem canRaise_arg_of_illFormed {i : Instr} (h : i.wellFormed = false) : canRaise i .arg = true := by
  cases i with
  | xsSeed | xsInt | xsBool | zsBegin => cases h
  | _ => rfl

theorem canRaise_busy_of_busyFor {i : Instr} {s : State} (h : busyFor i s = true) : canRaise i .busy = true := by
  cases i with
  | adInit | adUpdate => rfl
  | _ => cases h

theorem canRaise_seq_of_outOfSequence {i : Instr} {s : State} (h : outOfSequence i s = true) : canRaise i .seq = true := by
  cases i with
  | shaUpdate | shaFinal | shaRead | xsSeed | xsStart | xsNext | xsInt | xsPick | xsBool | zsBegin | zsData | zsEnd => rfl
  | _ => cases h

theorem canRaise_len_of_overLength {i : Instr} {s : State} (h : overLength i s = true) : canRaise i .len = true := by
  cases i with
  | shaUpdate | zsData | zsEnd => rfl
  | _ => cases h

/-- Every cause has its mark. -/
theorem canRaise_of_mem_causes {i : Instr} {s : State} {code : ErrorCode} (h : (true, code) ∈ causes i s) :
    canRaise i code = true := by
  simp only [causes, List.mem_cons, Prod.mk.injEq, List.not_mem_nil, or_false] at h
  obtain ⟨illFormed, rfl⟩ | ⟨busy, rfl⟩ | ⟨outOf, rfl⟩ | ⟨tooLong, rfl⟩ := h
  · exact canRaise_arg_of_illFormed (by simpa using illFormed)
  · exact canRaise_busy_of_busyFor busy.symm
  · exact canRaise_seq_of_outOfSequence outOf.symm
  · exact canRaise_len_of_overLength tooLong.symm

/-- Which error a command answered is told by its response. -/
theorem expectedStatus_of_exec {i : Instr} {s : State} {st : BitVec 4} (h : exec i s = .next (errorAnswer i.opcode st s)) :
    expectedStatus i s = st := by
  obtain ⟨res, responses⟩ := (answers_exec h).responses
  have same : responseWord st 0 = responseWord (expectedStatus i s) res := by simpa [errorAnswer] using responses
  simpa using (congrArg responseStatus same).symm

/-! The matrix of R231, from a mark to a command and a state that answer the code. -/

/-- Every operand field makes a command with a given defined opcode (R93). -/
theorem exists_opcode_arg (i : Instr) (arg : Word) : ∃ j : Instr, j.opcode = i.opcode ∧ j.arg = arg := by
  obtain ⟨j, decoded⟩ : ∃ j, decode (commandWord i.opcode arg) = .ok j :=
    decode_ok_iff.2 (by rw [opField_commandWord]; exact opcode_mem_definedOpcodes i)
  have encoded := encode_of_decode decoded
  refine ⟨j, ?_, ?_⟩
  · rw [← opField_encode, encoded, opField_commandWord]
  · rw [← argField_encode, encoded, argField_commandWord]

/-- Where `ERR_ARG` has a mark, some operand field is refused: all bits set, or a zero length for `XS_PICK` (R94). -/
theorem exists_refused_arg {i : Instr} (mark : canRaise i .arg = true) : ∃ arg, argPasses i.opcode arg = false := by
  cases i with
  | xsSeed | xsInt | xsBool | zsBegin => cases mark
  | xsPick => exact ⟨0, rfl⟩
  | _ => exact ⟨0xFFFFFFFF, rfl⟩

/-- Some command of `i`'s opcode answers the status of `code` in some state. -/
def AnsweredBy (i : Instr) (code : ErrorCode) : Prop :=
  ∃ (j : Instr) (s : State), j.opcode = i.opcode ∧ expectedStatus j s = errorStatus code

theorem answeredBy_arg {i : Instr} (mark : canRaise i .arg = true) : AnsweredBy i .arg := by
  obtain ⟨arg, refused⟩ := exists_refused_arg mark
  obtain ⟨j, sameOpcode, rfl⟩ := exists_opcode_arg i arg
  rw [← sameOpcode, ← wellFormed_eq_argPasses] at refused
  exact ⟨j, .reset, sameOpcode, if_pos refused⟩

/-- The reset state with a finished digest (R129). -/
def digestDone : State := { State.reset with sha := { ShaUnit.reset with done := true } }

/-- The reset state with the longest message absorbed (R125). -/
def messageFull : State := { State.reset with sha := { ShaUnit.reset with len := shaMaxLen } }

/-- The reset state with a stream opened for `length` bytes (R206). -/
def streamOpen (length : Word) : State := openStream length .reset

/-- The reset state is out of sequence for the generator, for reading a digest and for a stream's data and end; a finished digest
for more of its message, an open stream for another one. -/
theorem answeredBy_seq {i : Instr} (mark : canRaise i .seq = true) : AnsweredBy i .seq := by
  cases i with
  | shaUpdate _ byte => exact ⟨.shaUpdate 0 byte, digestDone, rfl, rfl⟩
  | shaFinal => exact ⟨.shaFinal 0, digestDone, rfl, rfl⟩
  | shaRead _ index => exact ⟨.shaRead 0 index, .reset, rfl, rfl⟩
  | xsSeed word => exact ⟨.xsSeed word, .reset, rfl, rfl⟩
  | xsStart => exact ⟨.xsStart 0, .reset, rfl, rfl⟩
  | xsNext => exact ⟨.xsNext 0, .reset, rfl, rfl⟩
  | xsInt min max => exact ⟨.xsInt min max, .reset, rfl, rfl⟩
  | xsPick => exact ⟨.xsPick 1, .reset, rfl, rfl⟩
  | xsBool threshold => exact ⟨.xsBool threshold, .reset, rfl, rfl⟩
  | zsBegin length => exact ⟨.zsBegin length, streamOpen 0, rfl, rfl⟩
  | zsData _ byte => exact ⟨.zsData 0 byte, .reset, rfl, rfl⟩
  | zsEnd => exact ⟨.zsEnd 0, .reset, rfl, rfl⟩
  | _ => cases mark

theorem answeredBy_busy {i : Instr} (mark : canRaise i .busy = true) : AnsweredBy i .busy := by
  cases i with
  | adInit => exact ⟨.adInit 0, streamOpen 0, rfl, rfl⟩
  | adUpdate _ byte => exact ⟨.adUpdate 0 byte, streamOpen 0, rfl, rfl⟩
  | _ => cases mark

/-- A byte too many for the message or the stream, and the end of a stream with a byte owed. -/
theorem answeredBy_len {i : Instr} (mark : canRaise i .len = true) : AnsweredBy i .len := by
  cases i with
  | shaUpdate _ byte => exact ⟨.shaUpdate 0 byte, messageFull, rfl, rfl⟩
  | zsData _ byte => exact ⟨.zsData 0 byte, streamOpen 0, rfl, rfl⟩
  | zsEnd => exact ⟨.zsEnd 0, streamOpen 1, rfl, rfl⟩
  | _ => cases mark

theorem answeredBy_of_canRaise {i : Instr} {code : ErrorCode} (mark : canRaise i code = true) : AnsweredBy i code := by
  cases code with
  | illop => cases mark
  | arg => exact answeredBy_arg mark
  | seq => exact answeredBy_seq mark
  | busy => exact answeredBy_busy mark
  | len => exact answeredBy_len mark

/-- Settles O10. -/
theorem errorMatrixExact : Obligations.ErrorMatrixExact := by
  refine ⟨fun i s code h => canRaise_of_mem_causes (mem_causes_of_expectedStatus (expectedStatus_of_exec h)),
    fun i code mark => ?_⟩
  obtain ⟨j, s, sameOpcode, status⟩ := answeredBy_of_canRaise mark
  refine ⟨j, s, sameOpcode, ?_⟩
  rw [← sameOpcode]
  exact exec_of_expectedStatus status (errorStatus_ne_ok code)

/-! Nothing stops the block (R230, R96, R240). -/

theorem runWord_next (cw : CommandWord) (s : State) : ∃ t, runWord cw s = .next t := by
  obtain ⟨t, run, -⟩ := answers_runWord cw s
  exact ⟨t, run⟩

theorem takeEvent_next (e : HostEvent) (s : State) : ∃ t, takeEvent e s = .next t := by
  cases e with
  | command cw => exact runWord_next cw s
  | hardReset cut during =>
    cases cut with
    | none => exact ⟨_, rfl⟩
    | some cw =>
      obtain ⟨t, run⟩ := runWord_next cw s
      exact ⟨cutShort s t, by rw [takeEvent, run]⟩

theorem step_next (s : State) : ∃ t, step s = .next t := by
  cases port : s.port with
  | nil => exact ⟨s, by rw [step, takeNext, port]⟩
  | cons e rest =>
    obtain ⟨t, taken⟩ := takeEvent_next e { s with port := rest }
    exact ⟨t, by rw [step, takeNext, port]; exact taken⟩

/-- Settles O56. -/
theorem stepAlwaysCompletes : Obligations.StepAlwaysCompletes := by
  intro s
  obtain ⟨t, run⟩ := step_next s
  refine ⟨t, run, fun idle => ?_⟩
  obtain ⟨-, rfl⟩ | ⟨e, rest, waiting, -⟩ := step_cases run
  · rfl
  · rw [idle] at waiting
    cases waiting

end Sys2Proof.Machine

/-! PROOFS. The obligations of 70_reset_and_hazards.md: the generator's all-zero state, how it is entered and how it is stuck
(R267, U2), an open stream beside other units' commands (R264), and hard reset (R260). -/

namespace Sys2Proof.Machine

/-! The way into the all-zero generator state (R267). -/

/-- All that a command can do to the generator's state words: it draws from them, loads the fallback constants, or takes a seed
word. -/
inductive GeneratorChange (i : Instr) (u v : XsUnit) : Prop
  | draws (n : Nat) (pair : v.pair = Nat.iterate (advance xsMix) n u.pair)
  | fallbacks (pair : v.pair = (xsFallback0, xsFallback1))
  | seedWord (w : Word) (command : i = .xsSeed w) (seeding : u.st = .seeding) (unit : v = xsTakeSeed w u)

theorem GeneratorChange.unchanged {i : Instr} {u v : XsUnit} (same : v = u) : GeneratorChange i u v :=
  .draws 0 (congrArg XsUnit.pair same)

/-- A command does to the generator what its work does, or nothing. -/
theorem runCommand_generatorChange {i : Instr} {op : BitVec 8} {checks : List (Bool × ErrorCode)} {done : State} {res : Word}
    {s t : State} (h : runCommand op checks done res s = .next t)
    (work : firstError checks = none → GeneratorChange i s.xs done.xs) : GeneratorChange i s.xs t.xs := by
  obtain ⟨code, -, rfl⟩ | ⟨passed, rfl⟩ := runCommand_cases h
  · exact .unchanged rfl
  · exact work passed

theorem exec_generatorChange {i : Instr} {s t : State} (h : exec i s = .next t) : GeneratorChange i s.xs t.xs := by
  cases i with
  | sysReset | xsInit => exact runCommand_generatorChange h fun _ => .fallbacks rfl
  | xsSeed w => exact runCommand_generatorChange h fun passed => .seedWord w rfl (by simpa using passed) rfl
  | xsStart => exact runCommand_generatorChange h fun _ => .draws xsWarmup (xsWarmUp_pair s.xs)
  | xsNext | xsInt | xsPick | xsBool => exact runCommand_generatorChange h fun _ => .draws 1 (drawState_pair s.xs)
  | _ => exact .unchanged ((exec_changesOnly rfl h).xs (by simp [unitOf_eq_unitNumber, unitNumber]))

/-- `(0, 0)` is a fixed point of an injection, so draws lead to it from itself alone (R164). -/
theorem eq_zero_of_iterate_advance {mix : XsMix} {n : Nat} {p : Word × Word} (h : Nat.iterate (advance mix) n p = (0, 0)) :
    p = (0, 0) :=
  (advance_bijective mix).injective.iterate n (h.trans (Function.iterate_fixed (advance_zero mix) n).symm)

/-- A zero seed word is replaced, so the first two words leave no zero (R152). -/
theorem seedOrFallback_ne_zero {fallback : Word} (nonzero : fallback ≠ 0) (w : Word) :
    (if w = 0 then fallback else w) ≠ 0 := by
  split
  · exact nonzero
  · assumption

/-- Of the three cases of a seed word only the folding one can leave the all-zero state (R152, R267). -/
theorem folding_of_xsTakeSeed_eq_zero {w : Word} {u : XsUnit} (zero : (xsTakeSeed w u).pair = (0, 0)) :
    u.cnt = 2 ∧ u.s1 = 0 ∧ w = u.s0 := by
  obtain ⟨-, first⟩ | ⟨-, second⟩ | ⟨folding, later⟩ := xsTakeSeed_cases w u
  · rw [first] at zero
    exact absurd (congrArg Prod.fst zero) (seedOrFallback_ne_zero xsFallback0_ne_zero w)
  · rw [second] at zero
    exact absurd (congrArg Prod.snd zero) (seedOrFallback_ne_zero xsFallback1_ne.1 w)
  · rw [later, drawState_pair] at zero
    obtain ⟨folded, s1⟩ : u.s0 ^^^ w = 0 ∧ u.s1 = 0 := Prod.ext_iff.1 (eq_zero_of_iterate_advance (n := 1) zero)
    exact ⟨folding, s1, (BitVec.xor_eq_zero_iff.1 folded).symm⟩

/-- The all-zero state is a fixed point of a draw (R164). -/
theorem drawState_of_zero {u : XsUnit} (zero : u.pair = (0, 0)) : drawState u = u := by
  rw [drawState, zero, advance_zero, ← zero]
  rfl

/-- `s0` folded into itself leaves zero, which with `s1 = 0` the discarded draw keeps (R152, R267). -/
theorem xsTakeSeed_own_word {u : XsUnit} (later : u.cnt = 2) (s1 : u.s1 = 0) : xsTakeSeed u.s0 u = { u with s0 := 0 } := by
  rw [xsTakeSeed_later later, BitVec.xor_self]
  exact drawState_of_zero (Prod.ext rfl s1)

/-- Settles O31: draws keep a state that is not all-zero so, the fallback constants are not 0, and of the seed words only a
folded one is left. -/
theorem allZeroOnlyByFolding : Obligations.AllZeroOnlyByFolding := by
  refine ⟨fun i s t run nonzero zero => ?_, fun s seeding later s1 => ?_⟩
  · cases exec_generatorChange run with
    | draws n pair => exact absurd (eq_zero_of_iterate_advance (pair.symm.trans zero)) nonzero
    | fallbacks pair => exact absurd (congrArg Prod.fst (pair.symm.trans zero)) xsFallback0_ne_zero
    | seedWord w command seeding unit =>
      obtain ⟨folding, s1, rfl⟩ := folding_of_xsTakeSeed_eq_zero (unit ▸ zero)
      exact ⟨seeding, folding, s1, command⟩
  · rw [exec_xsSeed seeding, xsTakeSeed_own_word later s1]

/-! The draws of the all-zero generator state (R267, U2). -/

theorem drawValue_of_zero {u : XsUnit} (zero : u.pair = (0, 0)) : drawValue u = 0 := by
  obtain ⟨s0, s1⟩ : u.s0 = 0 ∧ u.s1 = 0 := Prod.ext_iff.1 zero
  rw [drawValue_eq, drawState_of_zero zero, s0, s1]
  rfl

/-- A drawing command leaves an all-zero ready generator as it is and works on the draw 0. -/
theorem exec_draw_of_zero {i : Instr} {s : State} (draw : isDraw i = true) (ready : s.xs.st = .ready)
    (zero : s.xs.pair = (0, 0)) : exec i s = .next (okAnswer (drawResult i 0) s) := by
  rw [exec_draw draw ready, drawState_of_zero zero, drawValue_of_zero zero]

theorem scaleInt_zero (min max : BitVec 16) : scaleInt min.toInt max.toInt 0 = min.signExtend 32 := by
  simp [scaleInt, BitVec.signExtend]

theorem scalePick_zero (length : Word) : scalePick length 0 = 0 := by simp [scalePick]

theorem belowThreshold_zero (threshold : Word) : belowThreshold threshold 0 = if threshold = 0 then 0 else 1 := by
  by_cases zero : threshold = 0
  · rw [zero]
    rfl
  · have positive : 0 < threshold.toNat := Nat.pos_of_ne_zero fun h => zero (BitVec.eq_of_toNat_eq h)
    rw [if_neg zero]
    exact if_pos positive

/-- Settles O32. -/
theorem allZeroGeneratorStuck : Obligations.AllZeroGeneratorStuck := by
  intro s ready s0 s1
  have zero : s.xs.pair = (0, 0) := Prod.ext s0 s1
  refine ⟨exec_draw_of_zero rfl ready zero, fun min max => ?_, fun length nonzero => ?_, fun threshold => ?_⟩
  · rw [exec_draw_of_zero rfl ready zero, drawResult, scaleInt_zero]
  · rw [exec_draw_of_zero (i := .xsPick length) (bne_iff_ne.2 nonzero) ready zero, drawResult, scalePick_zero]
  · rw [exec_draw_of_zero rfl ready zero, drawResult, belowThreshold_zero]

/-! An open stream beside other units' commands (R264, R206). -/

/-- Settles O48: an open stream is the ZS unit, `OUT` and its checksum. -/
theorem openStreamUndisturbed : Obligations.OpenStreamUndisturbed := by
  intro i s t isOpen other noReset run
  obtain ⟨zs, out, ad⟩ := exec_other_sameStream other noReset run
  exact ⟨zs, ad isOpen, out⟩

/-! Hard reset (R260). -/

/-- At the ports, a command leaves the waiting host events, appends to `OUT` and gives one response (R61 to R63). -/
theorem exec_ports {i : Instr} {s t : State} (h : exec i s = .next t) :
    t.port = s.port ∧ ∃ r bytes, t.out = s.out ++ bytes ∧ t.responses = s.responses ++ [r] := by
  obtain ⟨st, res, bytes, same⟩ := exec_atPorts h
  have atOwn : t = t.atPorts (respond st res (emit bytes s)) := by
    simpa only [atPorts_self, h, Host.Outcome.next.injEq] using same s
  rw [atOwn]
  exact ⟨rfl, _, bytes, rfl, rfl⟩

theorem runWord_ports {cw : CommandWord} {s t : State} (h : runWord cw s = .next t) :
    t.port = s.port ∧ ∃ r bytes, t.out = s.out ++ bytes ∧ t.responses = s.responses ++ [r] := by
  obtain ⟨i, -, run⟩ | ⟨op, -, rfl⟩ := runWord_cases h
  · exact exec_ports run
  · exact ⟨rfl, _, [], (List.append_nil _).symm, raiseErr_responses ..⟩

/-- A hard reset during a command takes the command's work and cuts it short (R260). -/
theorem step_hardReset_cut {s u : State} {cw : CommandWord} {during : List CommandWord} {rest : List HostEvent}
    (port : s.port = .hardReset (some cw) during :: rest) (run : runWord cw { s with port := rest } = .next u) :
    step s = .next (cutShort { s with port := rest } u) := by
  rw [step, takeNext, port]
  simp only [takeEvent, run]

/-- Settles O53. -/
theorem hardResetResetsUnits : Obligations.HardResetResetsUnits := by
  intro s cut during rest port
  cases cut with
  | none => exact ⟨_, step_hardReset port, rfl, rfl, rfl, rfl, rfl, rfl, rfl, fun _ => ⟨rfl, rfl⟩, nofun⟩
  | some cw =>
    obtain ⟨u, run⟩ := runWord_next cw { s with port := rest }
    obtain ⟨waiting, r, bytes, out, responses⟩ := runWord_ports run
    refine ⟨_, step_hardReset_cut port run, ?_⟩
    obtain whole | ⟨k, part⟩ := cutShort_cases { s with port := rest } u
    · rw [whole]
      refine ⟨rfl, rfl, rfl, rfl, rfl, rfl, waiting, nofun, ?_⟩
      rintro _ ⟨⟩
      exact ⟨u, r, bytes, run, out, responses, .inl ⟨out, responses⟩⟩
    · rw [part]
      refine ⟨rfl, rfl, rfl, rfl, rfl, rfl, rfl, nofun, ?_⟩
      rintro _ ⟨⟩
      refine ⟨u, r, bytes, run, out, responses, .inr ⟨⟨k, ?_⟩, rfl⟩⟩
      rw [out, List.take_length_add_append]

end Sys2Proof.Machine
